-- ==== Sys2Proof/Word.lean ====
section
/-!
DEFINITION. The word types of the OOKD model (spec/00_scope.md R13, R16): all values are unsigned; registers with a
width are bit vectors, pulse widths in microseconds (R50) and times in
tenths of a second (R51) are naturals, whose port widths `WIDTH_BITS` and `TIME_BITS` are configuration fields.
-/

namespace Sys2Proof

/-- One slot of a PacketBuffer (R40): 8 bits. -/
abbrev Byte := BitVec 8

/-- A checksum (R45): 16 bits. -/
abbrev Crc := BitVec 16

end Sys2Proof
end

