-- ==== Sys2Proof/Config.lean ====
section
/-!
DEFINITION. What the construction of a block fixes (spec/00_scope.md R9, R10; spec/10_state.md R48, R49): the OPEN
parameters with their defaults, and the one value left uninterpreted, a `crc16_update` other than the default.
-/

namespace Sys2Proof

/-- The four lanes (R2): security sensor, energy meter, weather sensor, switch actuator. -/
inductive LaneId where
  | sec | em | ws | sw
deriving DecidableEq, Repr

/-- The post-processing of a completed packet, `POST[p]` (R10, R115, R138). -/
inductive Post where
  | none | revb | revn
deriving DecidableEq, Repr

/-- Which function stands for the OPEN parameter `crc16_update` (R152, D14): the spec's default, or any other, the
`n`-th of an uninterpreted family (log 2). -/
inductive CrcChoice where
  | default
  | other (n : Nat)
deriving DecidableEq, Repr

/-- Any `crc16_update` put in the default's place (R152: "an OPEN parameter of the model"). No body: nothing is known
of it but that it is a function (log 2). -/
opaque Config.crcOther : Nat → Crc → Byte → Crc

/-- The construction-time constants of one lane (R9, R10, R48). -/
structure LaneConfig where
  /-- `W[p]`, bits per byte: 7 or 8. -/
  w        : Nat
  /-- `TMIN[p]`, least width of a short pulse, microseconds. -/
  tmin     : Nat
  /-- `TSPLIT[p]`, least width of a long pulse, microseconds. -/
  tsplit   : Nat
  /-- `TMAX[p]`, least width above the long pulses, microseconds. -/
  tmax     : Nat
  /-- `MIN_GAP[p]`, tenths of a second. -/
  minGap   : BitVec 8
  /-- `MIN_COUNT[p]`. -/
  minCount : BitVec 8
  /-- `POST[p]`. -/
  post     : Post
deriving DecidableEq, Repr

/-- The construction-time constants of the block (R9, R10, R49). -/
structure Config where
  /-- `WIDTH_BITS`. -/
  widthBits : Nat
  /-- `TIME_BITS`. -/
  timeBits  : Nat
  sec       : LaneConfig
  em        : LaneConfig
  ws        : LaneConfig
  sw        : LaneConfig
  /-- `WS_MARKER`. -/
  wsMarker  : Bool
  /-- `crc16_update`. -/
  crc       : CrcChoice
deriving DecidableEq, Repr

/-- The default values of R9 and R10, which the test vectors of spec/95_test_vectors.md use (log 1). -/
def Config.default : Config where
  widthBits := 16
  timeBits  := 16
  sec := { w := 7, tmin := 200, tsplit := 600, tmax := 1000, minGap := 5,  minCount := 0, post := .none }
  em  := { w := 7, tmin := 200, tsplit := 600, tmax := 1000, minGap := 30, minCount := 0, post := .none }
  ws  := { w := 8, tmin := 200, tsplit := 600, tmax := 1000, minGap := 5,  minCount := 0, post := .none }
  sw  := { w := 8, tmin := 300, tsplit := 500, tmax := 775,  minGap := 5,  minCount := 0, post := .none }
  wsMarker := true
  crc := .default

end Sys2Proof
end

