-- ==== Sys2Proof/Syntax.lean ====
section
/-!
DEFINITION. The operation set of OOKD (spec/30_encoding.md R80): one constructor of `Instr` per row of
spec/opcode_table.json. Fields the decoder ignores (`rsv`, unused `lane` and `arg` bits: R81, R86, R88) are no part of
an instruction (log 18).
-/

namespace Sys2Proof

/-- DecoderState (R24), the lane's sequencing register: seven names and the reserved value 7, which the opcode table
has rows for. -/
inductive DecState where
  | unknown | sync | phaseA | phaseB | confirmed | trailing | done | rsv7
deriving DecidableEq, Repr

/-- The class of a pulse (R15, R112): `S`, `L`, `G` (terminating gap), `X` (out of range). -/
inductive PulseClass where
  | short | long | gap | outOfRange
deriving DecidableEq, Repr

/-- The operations of the block. Host operations (format H), micro-operations (format U), and the transition keys
(format T), named `t<Lane><State><Class>` after the table's `T.<lane>.<state>.<class>`. -/
inductive Instr where
  /-- R120 -/
  | nop
  /-- R110, R111: one pulse of `width` microseconds, broadcast to every lane. -/
  | feed (width : Nat)
  /-- R116 -/
  | take (lane : LaneId)
  /-- R117 -/
  | reset (lane : LaneId)
  /-- `op` 0x4 to 0x7 (R87): no operation, status ILLEGAL. -/
  | reserved4
  | reserved5
  | reserved6
  | reserved7
  /-- R131 -/
  | append (lane : LaneId) (v : Bool)
  /-- R132 -/
  | manch (lane : LaneId) (raw : Bool)
  /-- R133 -/
  | pad (lane : LaneId)
  /-- R134: `max = 0` stands for "no max_bytes given". -/
  | align (lane : LaneId) (max : BitVec 5)
  /-- R135 -/
  | revb (lane : LaneId)
  /-- R136 -/
  | revn (lane : LaneId)
  /-- R137 -/
  | invert (lane : LaneId)
  /-- R151 -/
  | admitPacket (lane : LaneId)
  | tSecUnknownS | tSecUnknownL | tSecUnknownG | tSecUnknownX
  | tSecSyncS | tSecSyncL | tSecSyncG | tSecSyncX
  | tSecPhaseAS | tSecPhaseAL | tSecPhaseAG | tSecPhaseAX
  | tSecPhaseBS | tSecPhaseBL | tSecPhaseBG | tSecPhaseBX
  | tSecConfirmedS | tSecConfirmedL | tSecConfirmedG | tSecConfirmedX
  | tSecTrailingS | tSecTrailingL | tSecTrailingG | tSecTrailingX
  | tSecDoneS | tSecDoneL | tSecDoneG | tSecDoneX
  | tSecRsv7S | tSecRsv7L | tSecRsv7G | tSecRsv7X
  | tEmUnknownS | tEmUnknownL | tEmUnknownG | tEmUnknownX
  | tEmSyncS | tEmSyncL | tEmSyncG | tEmSyncX
  | tEmPhaseAS | tEmPhaseAL | tEmPhaseAG | tEmPhaseAX
  | tEmPhaseBS | tEmPhaseBL | tEmPhaseBG | tEmPhaseBX
  | tEmConfirmedS | tEmConfirmedL | tEmConfirmedG | tEmConfirmedX
  | tEmTrailingS | tEmTrailingL | tEmTrailingG | tEmTrailingX
  | tEmDoneS | tEmDoneL | tEmDoneG | tEmDoneX
  | tEmRsv7S | tEmRsv7L | tEmRsv7G | tEmRsv7X
  | tWsUnknownS | tWsUnknownL | tWsUnknownG | tWsUnknownX
  | tWsSyncS | tWsSyncL | tWsSyncG | tWsSyncX
  | tWsPhaseAS | tWsPhaseAL | tWsPhaseAG | tWsPhaseAX
  | tWsPhaseBS | tWsPhaseBL | tWsPhaseBG | tWsPhaseBX
  | tWsConfirmedS | tWsConfirmedL | tWsConfirmedG | tWsConfirmedX
  | tWsTrailingS | tWsTrailingL | tWsTrailingG | tWsTrailingX
  | tWsDoneS | tWsDoneL | tWsDoneG | tWsDoneX
  | tWsRsv7S | tWsRsv7L | tWsRsv7G | tWsRsv7X
  | tSwUnknownS | tSwUnknownL | tSwUnknownG | tSwUnknownX
  | tSwSyncS | tSwSyncL | tSwSyncG | tSwSyncX
  | tSwPhaseAS | tSwPhaseAL | tSwPhaseAG | tSwPhaseAX
  | tSwPhaseBS | tSwPhaseBL | tSwPhaseBG | tSwPhaseBX
  | tSwConfirmedS | tSwConfirmedL | tSwConfirmedG | tSwConfirmedX
  | tSwTrailingS | tSwTrailingL | tSwTrailingG | tSwTrailingX
  | tSwDoneS | tSwDoneL | tSwDoneG | tSwDoneX
  | tSwRsv7S | tSwRsv7L | tSwRsv7G | tSwRsv7X
deriving DecidableEq, Repr

end Sys2Proof
end

