-- ==== Sys2Proof/WellFormed.lean ====
section
/-!
DEFINITION. Which instructions the encoding admits (spec/30_encoding.md R81, R86): the operand of `FEED` fits the
`arg` field of `WIDTH_BITS` bits, and so do the operands that the micro-operations hold there (R82); lane numbers have
the field's range by their type.
-/

namespace Sys2Proof

/-- The instruction has an encoding in a block whose `arg` field has `widthBits` bits (R81, R86). -/
def wellFormed (widthBits : Nat) : Instr → Bool
  | .feed width => decide (width < 2 ^ widthBits)
  | .nop | .take _ | .reset _ | .reserved4 | .reserved5 | .reserved6 | .reserved7 => true
  | .append _ v => decide (v.toNat < 2 ^ widthBits)
  | .manch _ raw => decide (raw.toNat < 2 ^ widthBits)
  | .align _ max => decide (max.toNat < 2 ^ widthBits)
  | .pad _ | .revb _ | .revn _ | .invert _ | .admitPacket _ => true
  | .tSecUnknownS | .tSecUnknownL | .tSecUnknownG | .tSecUnknownX
  | .tSecSyncS | .tSecSyncL | .tSecSyncG | .tSecSyncX
  | .tSecPhaseAS | .tSecPhaseAL | .tSecPhaseAG | .tSecPhaseAX
  | .tSecPhaseBS | .tSecPhaseBL | .tSecPhaseBG | .tSecPhaseBX
  | .tSecConfirmedS | .tSecConfirmedL | .tSecConfirmedG | .tSecConfirmedX
  | .tSecTrailingS | .tSecTrailingL | .tSecTrailingG | .tSecTrailingX
  | .tSecDoneS | .tSecDoneL | .tSecDoneG | .tSecDoneX
  | .tSecRsv7S | .tSecRsv7L | .tSecRsv7G | .tSecRsv7X => true
  | .tEmUnknownS | .tEmUnknownL | .tEmUnknownG | .tEmUnknownX
  | .tEmSyncS | .tEmSyncL | .tEmSyncG | .tEmSyncX
  | .tEmPhaseAS | .tEmPhaseAL | .tEmPhaseAG | .tEmPhaseAX
  | .tEmPhaseBS | .tEmPhaseBL | .tEmPhaseBG | .tEmPhaseBX
  | .tEmConfirmedS | .tEmConfirmedL | .tEmConfirmedG | .tEmConfirmedX
  | .tEmTrailingS | .tEmTrailingL | .tEmTrailingG | .tEmTrailingX
  | .tEmDoneS | .tEmDoneL | .tEmDoneG | .tEmDoneX
  | .tEmRsv7S | .tEmRsv7L | .tEmRsv7G | .tEmRsv7X => true
  | .tWsUnknownS | .tWsUnknownL | .tWsUnknownG | .tWsUnknownX
  | .tWsSyncS | .tWsSyncL | .tWsSyncG | .tWsSyncX
  | .tWsPhaseAS | .tWsPhaseAL | .tWsPhaseAG | .tWsPhaseAX
  | .tWsPhaseBS | .tWsPhaseBL | .tWsPhaseBG | .tWsPhaseBX
  | .tWsConfirmedS | .tWsConfirmedL | .tWsConfirmedG | .tWsConfirmedX
  | .tWsTrailingS | .tWsTrailingL | .tWsTrailingG | .tWsTrailingX
  | .tWsDoneS | .tWsDoneL | .tWsDoneG | .tWsDoneX
  | .tWsRsv7S | .tWsRsv7L | .tWsRsv7G | .tWsRsv7X => true
  | .tSwUnknownS | .tSwUnknownL | .tSwUnknownG | .tSwUnknownX
  | .tSwSyncS | .tSwSyncL | .tSwSyncG | .tSwSyncX
  | .tSwPhaseAS | .tSwPhaseAL | .tSwPhaseAG | .tSwPhaseAX
  | .tSwPhaseBS | .tSwPhaseBL | .tSwPhaseBG | .tSwPhaseBX
  | .tSwConfirmedS | .tSwConfirmedL | .tSwConfirmedG | .tSwConfirmedX
  | .tSwTrailingS | .tSwTrailingL | .tSwTrailingG | .tSwTrailingX
  | .tSwDoneS | .tSwDoneL | .tSwDoneG | .tSwDoneX
  | .tSwRsv7S | .tSwRsv7L | .tSwRsv7G | .tSwRsv7X => true

end Sys2Proof
end

