-- ==== Sys2Proof/Decode.lean ====
section
/-!
DEFINITION. The decoder and the encoder of the three formats (spec/30_encoding.md R81 to R88): a command word of
`8 + WIDTH_BITS` bits (formats H and U) and a 7-bit transition key (format T).
-/

namespace Sys2Proof

/-- The bits an instruction is written in (R81 to R83): a command word, or a transition key. -/
inductive Code where
  | command (w : Nat)
  | key (k : Nat)
deriving DecidableEq, Repr

/-- Why bits are no instruction. -/
inductive DecodeError where
  /-- A command word with bits above `8 + WIDTH_BITS` (R81: one length only). -/
  | wordTooWide
  /-- A transition key with bits above 6 (R83: 7 bits). -/
  | keyTooWide
  /-- A format U word on the host command port (R82, R87). -/
  | microOnHostPort
deriving DecidableEq, Repr

/-- The lane numbers (R2, R81). -/
def LaneId.code : LaneId → Nat
  | .sec => 0 | .em => 1 | .ws => 2 | .sw => 3

/-- The lane a 2-bit field names: all four values are lanes (R86). -/
def LaneId.ofCode (n : Nat) : LaneId :=
  match n % 4 with
  | 0 => .sec | 1 => .em | 2 => .ws | _ => .sw

/-- The 3-bit encoding of `state` (R24). -/
def DecState.code : DecState → Nat
  | .unknown => 0 | .sync => 1 | .phaseA => 2 | .phaseB => 3 | .confirmed => 4 | .trailing => 5 | .done => 6 | .rsv7 => 7

/-- The state a 3-bit field names (R24). -/
def DecState.ofCode (n : Nat) : DecState :=
  match n % 8 with
  | 0 => .unknown | 1 => .sync | 2 => .phaseA | 3 => .phaseB | 4 => .confirmed | 5 => .trailing | 6 => .done | _ => .rsv7

/-- The 2-bit encoding of a class (R83). -/
def PulseClass.code : PulseClass → Nat
  | .short => 0 | .long => 1 | .gap => 2 | .outOfRange => 3

/-- The class a 2-bit field names (R83). -/
def PulseClass.ofCode (n : Nat) : PulseClass :=
  match n % 4 with
  | 0 => .short | 1 => .long | 2 => .gap | _ => .outOfRange

/-- The rows `T.SEC.*` of the table by state and class (R85). -/
def secKey : DecState → PulseClass → Instr
  | .unknown, .short => .tSecUnknownS | .unknown, .long => .tSecUnknownL
  | .unknown, .gap => .tSecUnknownG | .unknown, .outOfRange => .tSecUnknownX
  | .sync, .short => .tSecSyncS | .sync, .long => .tSecSyncL
  | .sync, .gap => .tSecSyncG | .sync, .outOfRange => .tSecSyncX
  | .phaseA, .short => .tSecPhaseAS | .phaseA, .long => .tSecPhaseAL
  | .phaseA, .gap => .tSecPhaseAG | .phaseA, .outOfRange => .tSecPhaseAX
  | .phaseB, .short => .tSecPhaseBS | .phaseB, .long => .tSecPhaseBL
  | .phaseB, .gap => .tSecPhaseBG | .phaseB, .outOfRange => .tSecPhaseBX
  | .confirmed, .short => .tSecConfirmedS | .confirmed, .long => .tSecConfirmedL
  | .confirmed, .gap => .tSecConfirmedG | .confirmed, .outOfRange => .tSecConfirmedX
  | .trailing, .short => .tSecTrailingS | .trailing, .long => .tSecTrailingL
  | .trailing, .gap => .tSecTrailingG | .trailing, .outOfRange => .tSecTrailingX
  | .done, .short => .tSecDoneS | .done, .long => .tSecDoneL
  | .done, .gap => .tSecDoneG | .done, .outOfRange => .tSecDoneX
  | .rsv7, .short => .tSecRsv7S | .rsv7, .long => .tSecRsv7L
  | .rsv7, .gap => .tSecRsv7G | .rsv7, .outOfRange => .tSecRsv7X

/-- The rows `T.EM.*` of the table by state and class (R85). -/
def emKey : DecState → PulseClass → Instr
  | .unknown, .short => .tEmUnknownS | .unknown, .long => .tEmUnknownL
  | .unknown, .gap => .tEmUnknownG | .unknown, .outOfRange => .tEmUnknownX
  | .sync, .short => .tEmSyncS | .sync, .long => .tEmSyncL
  | .sync, .gap => .tEmSyncG | .sync, .outOfRange => .tEmSyncX
  | .phaseA, .short => .tEmPhaseAS | .phaseA, .long => .tEmPhaseAL
  | .phaseA, .gap => .tEmPhaseAG | .phaseA, .outOfRange => .tEmPhaseAX
  | .phaseB, .short => .tEmPhaseBS | .phaseB, .long => .tEmPhaseBL
  | .phaseB, .gap => .tEmPhaseBG | .phaseB, .outOfRange => .tEmPhaseBX
  | .confirmed, .short => .tEmConfirmedS | .confirmed, .long => .tEmConfirmedL
  | .confirmed, .gap => .tEmConfirmedG | .confirmed, .outOfRange => .tEmConfirmedX
  | .trailing, .short => .tEmTrailingS | .trailing, .long => .tEmTrailingL
  | .trailing, .gap => .tEmTrailingG | .trailing, .outOfRange => .tEmTrailingX
  | .done, .short => .tEmDoneS | .done, .long => .tEmDoneL
  | .done, .gap => .tEmDoneG | .done, .outOfRange => .tEmDoneX
  | .rsv7, .short => .tEmRsv7S | .rsv7, .long => .tEmRsv7L
  | .rsv7, .gap => .tEmRsv7G | .rsv7, .outOfRange => .tEmRsv7X

/-- The rows `T.WS.*` of the table by state and class (R85). -/
def wsKey : DecState → PulseClass → Instr
  | .unknown, .short => .tWsUnknownS | .unknown, .long => .tWsUnknownL
  | .unknown, .gap => .tWsUnknownG | .unknown, .outOfRange => .tWsUnknownX
  | .sync, .short => .tWsSyncS | .sync, .long => .tWsSyncL
  | .sync, .gap => .tWsSyncG | .sync, .outOfRange => .tWsSyncX
  | .phaseA, .short => .tWsPhaseAS | .phaseA, .long => .tWsPhaseAL
  | .phaseA, .gap => .tWsPhaseAG | .phaseA, .outOfRange => .tWsPhaseAX
  | .phaseB, .short => .tWsPhaseBS | .phaseB, .long => .tWsPhaseBL
  | .phaseB, .gap => .tWsPhaseBG | .phaseB, .outOfRange => .tWsPhaseBX
  | .confirmed, .short => .tWsConfirmedS | .confirmed, .long => .tWsConfirmedL
  | .confirmed, .gap => .tWsConfirmedG | .confirmed, .outOfRange => .tWsConfirmedX
  | .trailing, .short => .tWsTrailingS | .trailing, .long => .tWsTrailingL
  | .trailing, .gap => .tWsTrailingG | .trailing, .outOfRange => .tWsTrailingX
  | .done, .short => .tWsDoneS | .done, .long => .tWsDoneL
  | .done, .gap => .tWsDoneG | .done, .outOfRange => .tWsDoneX
  | .rsv7, .short => .tWsRsv7S | .rsv7, .long => .tWsRsv7L
  | .rsv7, .gap => .tWsRsv7G | .rsv7, .outOfRange => .tWsRsv7X

/-- The rows `T.SW.*` of the table by state and class (R85). -/
def swKey : DecState → PulseClass → Instr
  | .unknown, .short => .tSwUnknownS | .unknown, .long => .tSwUnknownL
  | .unknown, .gap => .tSwUnknownG | .unknown, .outOfRange => .tSwUnknownX
  | .sync, .short => .tSwSyncS | .sync, .long => .tSwSyncL
  | .sync, .gap => .tSwSyncG | .sync, .outOfRange => .tSwSyncX
  | .phaseA, .short => .tSwPhaseAS | .phaseA, .long => .tSwPhaseAL
  | .phaseA, .gap => .tSwPhaseAG | .phaseA, .outOfRange => .tSwPhaseAX
  | .phaseB, .short => .tSwPhaseBS | .phaseB, .long => .tSwPhaseBL
  | .phaseB, .gap => .tSwPhaseBG | .phaseB, .outOfRange => .tSwPhaseBX
  | .confirmed, .short => .tSwConfirmedS | .confirmed, .long => .tSwConfirmedL
  | .confirmed, .gap => .tSwConfirmedG | .confirmed, .outOfRange => .tSwConfirmedX
  | .trailing, .short => .tSwTrailingS | .trailing, .long => .tSwTrailingL
  | .trailing, .gap => .tSwTrailingG | .trailing, .outOfRange => .tSwTrailingX
  | .done, .short => .tSwDoneS | .done, .long => .tSwDoneL
  | .done, .gap => .tSwDoneG | .done, .outOfRange => .tSwDoneX
  | .rsv7, .short => .tSwRsv7S | .rsv7, .long => .tSwRsv7L
  | .rsv7, .gap => .tSwRsv7G | .rsv7, .outOfRange => .tSwRsv7X

/-- The row of a transition key's three fields (R83). -/
def keyInstr : LaneId → DecState → PulseClass → Instr
  | .sec, st, c => secKey st c
  | .em, st, c => emKey st c
  | .ws, st, c => wsKey st c
  | .sw, st, c => swKey st c

/-- The key `{lane, state, class}` (R83). -/
def keyCode (p : LaneId) (st : DecState) (c : PulseClass) : Nat :=
  32 * p.code + 4 * st.code + c.code

/-- A transition key decoded (R83). -/
def decodeKey (k : Nat) : Except DecodeError Instr :=
  if k < 128 then .ok (keyInstr (.ofCode (k / 32)) (.ofCode (k / 4)) (.ofCode k)) else .error .keyTooWide

/-- The field `lane` of a command word (R81). -/
def laneField (widthBits w : Nat) : LaneId := .ofCode (w / 2 ^ (widthBits + 2))

/-- The field `arg` of a command word (R81). -/
def argField (widthBits w : Nat) : Nat := w % 2 ^ widthBits

/-- A command word decoded by its `op` field (R81, R84). -/
def decodeCommand (widthBits w : Nat) : Except DecodeError Instr :=
  let lane := laneField widthBits w
  let arg := argField widthBits w
  match w / 2 ^ (widthBits + 4) with
  | 0x0 => .ok .nop
  | 0x1 => .ok (.feed arg)
  | 0x2 => .ok (.take lane)
  | 0x3 => .ok (.reset lane)
  | 0x4 => .ok .reserved4
  | 0x5 => .ok .reserved5
  | 0x6 => .ok .reserved6
  | 0x7 => .ok .reserved7
  | 0x8 => .ok (.append lane (arg.testBit 0))
  | 0x9 => .ok (.manch lane (arg.testBit 0))
  | 0xA => .ok (.pad lane)
  | 0xB => .ok (.align lane (BitVec.ofNat 5 arg))
  | 0xC => .ok (.revb lane)
  | 0xD => .ok (.revn lane)
  | 0xE => .ok (.invert lane)
  | 0xF => .ok (.admitPacket lane)
  | _ => .error .wordTooWide

/-- The decoder: total, a bad code rejected by name. -/
def decode (widthBits : Nat) : Code → Except DecodeError Instr
  | .command w => decodeCommand widthBits w
  | .key k => decodeKey k

/-- The decoder of the host command port, which accepts `op` 0x0 to 0x7 (R84, R87). The reserved values are accepted
here as the instructions that answer ILLEGAL. -/
def decodeHost (widthBits w : Nat) : Except DecodeError Instr :=
  if w / 2 ^ (widthBits + 4) < 8 then decodeCommand widthBits w else .error .microOnHostPort

/-- A command word from its fields; `rsv` is written 0 by the assembler (R81). -/
def commandWord (widthBits op : Nat) (lane arg : Nat) : Nat :=
  op * 2 ^ (widthBits + 4) + lane * 2 ^ (widthBits + 2) + arg

/-- The encoder (R81 to R84): fields an instruction does not use are written 0 (log 18). -/
def encode (widthBits : Nat) : Instr → Code
  | .nop => .command (commandWord widthBits 0x0 0 0)
  | .feed width => .command (commandWord widthBits 0x1 0 width)
  | .take p => .command (commandWord widthBits 0x2 p.code 0)
  | .reset p => .command (commandWord widthBits 0x3 p.code 0)
  | .reserved4 => .command (commandWord widthBits 0x4 0 0)
  | .reserved5 => .command (commandWord widthBits 0x5 0 0)
  | .reserved6 => .command (commandWord widthBits 0x6 0 0)
  | .reserved7 => .command (commandWord widthBits 0x7 0 0)
  | .append p v => .command (commandWord widthBits 0x8 p.code v.toNat)
  | .manch p raw => .command (commandWord widthBits 0x9 p.code raw.toNat)
  | .pad p => .command (commandWord widthBits 0xA p.code 0)
  | .align p max => .command (commandWord widthBits 0xB p.code max.toNat)
  | .revb p => .command (commandWord widthBits 0xC p.code 0)
  | .revn p => .command (commandWord widthBits 0xD p.code 0)
  | .invert p => .command (commandWord widthBits 0xE p.code 0)
  | .admitPacket p => .command (commandWord widthBits 0xF p.code 0)
  | .tSecUnknownS => .key 0x00 | .tSecUnknownL => .key 0x01 | .tSecUnknownG => .key 0x02 | .tSecUnknownX => .key 0x03
  | .tSecSyncS => .key 0x04 | .tSecSyncL => .key 0x05 | .tSecSyncG => .key 0x06 | .tSecSyncX => .key 0x07
  | .tSecPhaseAS => .key 0x08 | .tSecPhaseAL => .key 0x09 | .tSecPhaseAG => .key 0x0A | .tSecPhaseAX => .key 0x0B
  | .tSecPhaseBS => .key 0x0C | .tSecPhaseBL => .key 0x0D | .tSecPhaseBG => .key 0x0E | .tSecPhaseBX => .key 0x0F
  | .tSecConfirmedS => .key 0x10 | .tSecConfirmedL => .key 0x11 | .tSecConfirmedG => .key 0x12 | .tSecConfirmedX => .key 0x13
  | .tSecTrailingS => .key 0x14 | .tSecTrailingL => .key 0x15 | .tSecTrailingG => .key 0x16 | .tSecTrailingX => .key 0x17
  | .tSecDoneS => .key 0x18 | .tSecDoneL => .key 0x19 | .tSecDoneG => .key 0x1A | .tSecDoneX => .key 0x1B
  | .tSecRsv7S => .key 0x1C | .tSecRsv7L => .key 0x1D | .tSecRsv7G => .key 0x1E | .tSecRsv7X => .key 0x1F
  | .tEmUnknownS => .key 0x20 | .tEmUnknownL => .key 0x21 | .tEmUnknownG => .key 0x22 | .tEmUnknownX => .key 0x23
  | .tEmSyncS => .key 0x24 | .tEmSyncL => .key 0x25 | .tEmSyncG => .key 0x26 | .tEmSyncX => .key 0x27
  | .tEmPhaseAS => .key 0x28 | .tEmPhaseAL => .key 0x29 | .tEmPhaseAG => .key 0x2A | .tEmPhaseAX => .key 0x2B
  | .tEmPhaseBS => .key 0x2C | .tEmPhaseBL => .key 0x2D | .tEmPhaseBG => .key 0x2E | .tEmPhaseBX => .key 0x2F
  | .tEmConfirmedS => .key 0x30 | .tEmConfirmedL => .key 0x31 | .tEmConfirmedG => .key 0x32 | .tEmConfirmedX => .key 0x33
  | .tEmTrailingS => .key 0x34 | .tEmTrailingL => .key 0x35 | .tEmTrailingG => .key 0x36 | .tEmTrailingX => .key 0x37
  | .tEmDoneS => .key 0x38 | .tEmDoneL => .key 0x39 | .tEmDoneG => .key 0x3A | .tEmDoneX => .key 0x3B
  | .tEmRsv7S => .key 0x3C | .tEmRsv7L => .key 0x3D | .tEmRsv7G => .key 0x3E | .tEmRsv7X => .key 0x3F
  | .tWsUnknownS => .key 0x40 | .tWsUnknownL => .key 0x41 | .tWsUnknownG => .key 0x42 | .tWsUnknownX => .key 0x43
  | .tWsSyncS => .key 0x44 | .tWsSyncL => .key 0x45 | .tWsSyncG => .key 0x46 | .tWsSyncX => .key 0x47
  | .tWsPhaseAS => .key 0x48 | .tWsPhaseAL => .key 0x49 | .tWsPhaseAG => .key 0x4A | .tWsPhaseAX => .key 0x4B
  | .tWsPhaseBS => .key 0x4C | .tWsPhaseBL => .key 0x4D | .tWsPhaseBG => .key 0x4E | .tWsPhaseBX => .key 0x4F
  | .tWsConfirmedS => .key 0x50 | .tWsConfirmedL => .key 0x51 | .tWsConfirmedG => .key 0x52 | .tWsConfirmedX => .key 0x53
  | .tWsTrailingS => .key 0x54 | .tWsTrailingL => .key 0x55 | .tWsTrailingG => .key 0x56 | .tWsTrailingX => .key 0x57
  | .tWsDoneS => .key 0x58 | .tWsDoneL => .key 0x59 | .tWsDoneG => .key 0x5A | .tWsDoneX => .key 0x5B
  | .tWsRsv7S => .key 0x5C | .tWsRsv7L => .key 0x5D | .tWsRsv7G => .key 0x5E | .tWsRsv7X => .key 0x5F
  | .tSwUnknownS => .key 0x60 | .tSwUnknownL => .key 0x61 | .tSwUnknownG => .key 0x62 | .tSwUnknownX => .key 0x63
  | .tSwSyncS => .key 0x64 | .tSwSyncL => .key 0x65 | .tSwSyncG => .key 0x66 | .tSwSyncX => .key 0x67
  | .tSwPhaseAS => .key 0x68 | .tSwPhaseAL => .key 0x69 | .tSwPhaseAG => .key 0x6A | .tSwPhaseAX => .key 0x6B
  | .tSwPhaseBS => .key 0x6C | .tSwPhaseBL => .key 0x6D | .tSwPhaseBG => .key 0x6E | .tSwPhaseBX => .key 0x6F
  | .tSwConfirmedS => .key 0x70 | .tSwConfirmedL => .key 0x71 | .tSwConfirmedG => .key 0x72 | .tSwConfirmedX => .key 0x73
  | .tSwTrailingS => .key 0x74 | .tSwTrailingL => .key 0x75 | .tSwTrailingG => .key 0x76 | .tSwTrailingX => .key 0x77
  | .tSwDoneS => .key 0x78 | .tSwDoneL => .key 0x79 | .tSwDoneG => .key 0x7A | .tSwDoneX => .key 0x7B
  | .tSwRsv7S => .key 0x7C | .tSwRsv7L => .key 0x7D | .tSwRsv7G => .key 0x7E | .tSwRsv7X => .key 0x7F

/-- The bits lie within the format: `8 + WIDTH_BITS` bits of a command word, 7 of a key (R81, R83). -/
def Code.fits (widthBits : Nat) : Code → Bool
  | .command w => decide (w < 2 ^ (widthBits + 8))
  | .key k => decide (k < 2 ^ 7)

/-- The instruction of an opcode-table word: a row of at most 8 bits is a transition key, one of 24 bits a command
word at the default `WIDTH_BITS` of 16, which is the width the table is written for (R84). -/
def decodeTableWord (nbits w : Nat) : Option Instr :=
  if nbits ≤ 8 then (decode 16 (.key w)).toOption
  else if nbits ≤ 24 then (decode 16 (.command w)).toOption
  else none

end Sys2Proof
end

