-- ==== Sys2Proof/Machine/State.lean ====
section
/-!
DEFINITION. The state of OOKD (spec/10_state.md), its reset values (R55, R301), and the reasons a step can stop. State
is plain data.
-/

namespace Sys2Proof.Machine

/-- The contents of a PacketBuffer (R40): slot indices with their bytes. Canonical form: `Memory.wf`. -/
abbrev Memory := List Host.Cell

/-- What a slot reads as that the list does not name: the reset value of every slot (R40, R55; log 15). -/
abbrev Memory.unlisted : Byte := 0

/-- Indices rise strictly from `lo`, stay below 25 (R60), and no entry holds what an unlisted slot reads as. -/
def Memory.wfFrom : Nat → Memory → Bool
  | _, [] => true
  | lo, (i, b) :: m => decide (lo ≤ i) && decide (i < 25) && decide (b ≠ Memory.unlisted) && Memory.wfFrom (i + 1) m

/-- The one canonical form of a buffer's contents: equal buffers are equal lists. -/
def Memory.wf (m : Memory) : Bool := Memory.wfFrom 0 m

/-- The DedupRecord (R45 to R47); its two configured constants are in `Config` (R48). -/
structure DedupRecord where
  /-- `last_crc`, R45 -/
  lastCrc  : Crc
  /-- `last_time`, R46: `TIME_BITS` wide -/
  lastTime : Nat
  /-- `repeats`, R47 -/
  repeats  : BitVec 8
deriving DecidableEq, Repr

/-- One lane (R20): the PacketBuffer with its cursors, the sequencing register, the auxiliary scalars, the
DedupRecord. -/
structure Lane where
  /-- `data[0..24]`, R40 -/
  data   : Memory
  /-- byte cursor, R21 -/
  pos    : BitVec 5
  /-- bit cursor, R22 -/
  bits   : BitVec 4
  /-- Manchester flip flag, R23 -/
  flip   : Bool
  /-- sequencing register, R24 -/
  state  : DecState
  /-- preamble run counter, R29 -/
  run    : BitVec 5
  /-- class of the previous preamble pulse, `false` for `S` and `true` for `L`, R30 -/
  prev   : Bool
  /-- running raw bit count, R31 -/
  nbits  : BitVec 8
  /-- even-parity accumulator, R32 -/
  par    : Bool
  /-- extended-message flag, R33 -/
  ext    : Bool
  /-- message-type code, R34 -/
  mtype  : BitVec 4
  /-- the type is captured, R34 -/
  mvalid : Bool
  /-- R45 to R47 -/
  dedup  : DedupRecord
deriving DecidableEq, Repr

/-- What the last operation answered. The first six are the results of R89; the others make visible what R111, R131 and
R151 return inside the block (log 5). -/
inductive Reply where
  /-- nothing has answered yet -/
  | silent
  /-- `NOP`, `RESET`: status OK -/
  | ok
  /-- `FEED`: status OK and the four `avail` bits, bit `p` for lane `p` -/
  | fed (avail : BitVec 4)
  /-- `TAKE`: status OK, length and bytes -/
  | packet (len : BitVec 5) (bytes : List Byte)
  /-- `TAKE` on a lane that holds no packet: status NOPACKET (R116) -/
  | noPacket
  /-- status ILLEGAL (R87) -/
  | illegal
  /-- the Boolean of a lane-level FEED (R111) -/
  | laneFed (done : Bool)
  /-- a micro-operation ended, having raised a `Fail` or not (R131) -/
  | micro (raised : Bool)
  /-- the Boolean of ADMIT (R151) -/
  | admitted (accept : Bool)
deriving DecidableEq, Repr

/-- One thing the outside world presents to the block (log 4, log 8, log 9). -/
inductive Item where
  /-- a word on the host command port (R81) -/
  | host (word : Nat)
  /-- a format U word on the bus of the micro-operations (R82, R130) -/
  | micro (word : Nat)
  /-- a classified pulse at the input of one lane (R110, R111) -/
  | pulse (lane : LaneId) (cls : PulseClass)
deriving DecidableEq, Repr

/-- An item with the value the `now` port shows beside it (R51). -/
structure Request where
  now  : Nat
  item : Item
deriving DecidableEq, Repr

/-- The machine: the four lanes (R20), the configured values (R55), the ports. -/
structure State where
  sec   : Lane
  em    : Lane
  ws    : Lane
  sw    : Lane
  /-- constant after construction (R48, R49) -/
  cfg   : Config
  /-- the `now` input (R51) -/
  now   : Nat
  /-- the model's own: the requests still to come (log 4) -/
  inbox : List Request
  /-- the model's own: the last result (log 5) -/
  reply : Reply
deriving DecidableEq, Repr

/-- Why the machine stops with a fault. -/
inductive Fault where
  /-- A rule would access a slot 25 to 31, which "address nothing" (R60). Raised by the operations of
  Machine/Accumulator.lean, Machine/Dedup.lean and `TAKE` when `pos` is above 25, which no run reaches (R41). Safe:
  the machine stops where the spec has nothing (log 11). -/
  | noSuchSlot (index : Nat)
deriving DecidableEq, Repr

/-- Why an instruction has no meaning. -/
inductive Refusal where
  /-- An arm of `exec` that is not modelled. Raised by `exec` alone. Safe. -/
  | notModelled (mnemonic : String)
  /-- The configuration breaks R11: such a block is not constructed (U9, R303). Raised by `step` alone. Safe
  (log 10). -/
  | badConfiguration
deriving DecidableEq, Repr

/-- A DedupRecord after power-on (R55, R301). -/
def DedupRecord.powerOn : DedupRecord where
  lastCrc  := 0x0000
  lastTime := 0
  repeats  := 0

/-- A lane after power-on (R55, R301). -/
def Lane.powerOn : Lane where
  data   := []
  pos    := 0
  bits   := 0
  flip   := false
  state  := .unknown
  run    := 0
  prev   := false
  nbits  := 0
  par    := false
  ext    := false
  mtype  := 0
  mvalid := false
  dedup  := .powerOn

/-- The machine right after the power-on reset (R301), constructed with the default configuration (log 1); the ports
are idle (log 13, log 14). DESIGN CHOICE: of the pin and the moment of construction that R300 allows, the model takes
construction; no request applies this reset during a run (log 22). -/
def State.reset : State where
  sec   := .powerOn
  em    := .powerOn
  ws    := .powerOn
  sw    := .powerOn
  cfg   := .default
  now   := 0
  inbox := []
  reply := .silent

end Sys2Proof.Machine
end

