-- ==== Sys2Proof/Machine/Ops.lean ====
section
/-!
DEFINITION. The named operations over a lane's buffer and registers, access to the lanes, the results a
micro-operation or a step can have, and taking a `Fail`, the block's one exception (spec/60_exceptions.md R270), by the
lane reset (spec/70_reset_and_hazards.md R302).
-/

namespace Sys2Proof

/-- The configuration of lane `p` (R9, R10). -/
def Config.lane (c : Config) : LaneId → LaneConfig
  | .sec => c.sec
  | .em => c.em
  | .ws => c.ws
  | .sw => c.sw

end Sys2Proof

namespace Sys2Proof.Machine

/-- `data[i]` (R14, R67). -/
def Memory.read : Memory → Nat → Byte
  | [], _ => Memory.unlisted
  | (j, b) :: m, i => if j = i then b else Memory.read m i

/-- `data[i] <- v` (R14, R67), in canonical form. -/
def Memory.write : Memory → Nat → Byte → Memory
  | [], i, v => if v = Memory.unlisted then [] else [(i, v)]
  | (j, b) :: m, i, v =>
    if i < j then (if v = Memory.unlisted then (j, b) :: m else (i, v) :: (j, b) :: m)
    else if i = j then (if v = Memory.unlisted then m else (i, v) :: m)
    else (j, b) :: Memory.write m i v

/-- `for i in 0 .. n-1: data[i] <- f data[i]`, ascending. -/
def Memory.mapSlots (f : Byte → Byte) : Nat → Memory → Memory
  | 0, m => m
  | n + 1, m =>
    let m' := Memory.mapSlots f n m
    m'.write n (f (m'.read n))

/-- `for i in 0 .. count-1: data[i] <- data[i + n]`, ascending (R134). -/
def Memory.moveDown (n : Nat) : Nat → Memory → Memory
  | 0, m => m
  | count + 1, m =>
    let m' := Memory.moveDown n count m
    m'.write count (m'.read (count + n))

/-- `for i in lo .. lo+count-1: data[i] <- 0x00` (R134). -/
def Memory.clear (lo : Nat) : Nat → Memory → Memory
  | 0, m => m
  | count + 1, m => (Memory.clear lo count m).write (lo + count) 0x00

/-- The bytes `data[0], ..., data[n-1]` in this order (R65). -/
def Memory.bytes (m : Memory) (n : Nat) : List Byte := (List.range n).map m.read

/-- The capacity of a PacketBuffer, `CAP` (R8). -/
abbrev cap : Nat := 25

/-- The causes of a `Fail` (R271): labels for theorems, neither state nor output (log 16). -/
inductive FailCause where
  | range | gap | overflow | check | preamble | pair | marker | parity | state
deriving DecidableEq, Repr

/-- How a micro-operation ends: with a value, by `raise Fail(cause)` (R14), or by an access to no slot (log 11). -/
inductive Res (α : Type) where
  | ok (a : α)
  | fail (cause : FailCause)
  | fault (f : Fault)
deriving DecidableEq, Repr

/-- The outcome of one state-machine step, DecodeOutcome (R15), with the lane as the step leaves it. -/
inductive StepOut where
  | cont (l : Lane)
  | complete (l : Lane)
  | fail (cause : FailCause)
  | fault (f : Fault)
deriving DecidableEq, Repr

/-- Go on with the value; a `Fail` or a fault ends the pseudocode at once (R14). -/
def Res.bind {α β : Type} : Res α → (α → Res β) → Res β
  | .ok a, k => k a
  | .fail c, _ => .fail c
  | .fault f, _ => .fault f

/-- A micro-operation inside a step: its `Fail` is the step's (R131). -/
def Res.inStep : Res Lane → (Lane → StepOut) → StepOut
  | .ok l, k => k l
  | .fail c, _ => .fail c
  | .fault f, _ => .fault f

/-- The lane reset (R302, R55): everything but the DedupRecord returns to its initial value. -/
def Lane.reset (l : Lane) : Lane := { Lane.powerOn with dedup := l.dedup }

/-- Taking a `Fail` (R270, R114): nothing is saved, the cause is not recorded, the lane is reset. There is no return
from it. -/
def Lane.takeFail (l : Lane) (_cause : FailCause) : Lane := l.reset

/-- The end of lane `l`'s pseudocode seen by the driver: a `Fail` is taken (R114). -/
def Res.settle (l : Lane) : Res Lane → Except Fault Lane
  | .ok l' => .ok l'
  | .fail c => .ok (l.takeFail c)
  | .fault f => .error f

/-- The lane `p` of the block (R2). -/
def State.lane (s : State) : LaneId → Lane
  | .sec => s.sec
  | .em => s.em
  | .ws => s.ws
  | .sw => s.sw

/-- The block with lane `p` replaced. -/
def State.setLane (s : State) (p : LaneId) (l : Lane) : State :=
  match p with
  | .sec => { s with sec := l }
  | .em => { s with em := l }
  | .ws => { s with ws := l }
  | .sw => { s with sw := l }

/-- The operation's result (R89). -/
def State.answer (s : State) (r : Reply) : State := { s with reply := r }

/-- A micro-operation issued to lane `p` by itself (R82, R130; log 9): a `Fail` it raises is taken by the lane. -/
def State.micro (s : State) (p : LaneId) (f : Lane → Res Lane) : Host.Outcome State Fault Refusal :=
  match f (s.lane p) with
  | .ok l => .next ((s.setLane p l).answer (.micro false))
  | .fail c => .next ((s.setLane p ((s.lane p).takeFail c)).answer (.micro true))
  | .fault f => .fault f

end Sys2Proof.Machine
end

