-- ==== Sys2Proof/Machine/Operands.lean ====
section
/-!
DEFINITION. The operands a step reads: the fixed constants (spec/00_scope.md R8), the class of a pulse width
(spec/40_driver.md R112), the counters' arithmetic (R16), elapsed time (spec/42_dedup.md R154), the constraints on a
configuration (R11).
-/

namespace Sys2Proof.Machine

/-- `TGAP[p]`: least width of a terminating gap (R8). -/
def tgap : LaneId → Nat
  | .sec => 2500
  | .em | .ws | .sw => 1500

/-- `SEC_MINBITS` (R8). -/
abbrev secMinBits : Nat := 36
/-- `SEC_KEEP` (R8). -/
abbrev secKeep : BitVec 5 := 5
/-- `EM_RUN` (R8). -/
abbrev emRun : Nat := 20
/-- `EM_MINBYTES` (R8). -/
abbrev emMinBytes : Nat := 9
/-- `WS_RUN_LO` (R8). -/
abbrev wsRunLo : Nat := 14
/-- `WS_RUN_HI` (R8). -/
abbrev wsRunHi : Nat := 20
/-- `WS_GROUP` (R8). -/
abbrev wsGroup : Nat := 5
/-- `WS_LEN1` (R8). -/
abbrev wsLen1 : Nat := 49
/-- `WS_LEN7` (R8). -/
abbrev wsLen7 : Nat := 79
/-- `WS_MINBYTES` (R8). -/
abbrev wsMinBytes : Nat := 6
/-- `SW_RUN` (R8). -/
abbrev swRun : Nat := 20
/-- `SW_GROUP` (R8). -/
abbrev swGroup : Nat := 9
/-- `SW_LEN` (R8). -/
abbrev swLen : Nat := 45
/-- `SW_LEN_EXT` (R8). -/
abbrev swLenExt : Nat := 54
/-- `SW_MINBYTES` (R8). -/
abbrev swMinBytes : Nat := 5
/-- `CRC_SEED` (R8). -/
abbrev crcSeed : Crc := 0xFFFF
/-- The value the run counters saturate at, "more than 20" (R29). -/
abbrev runTop : Nat := 21

/-- The class of a pulse of `w` microseconds in lane `p` (R112). -/
def classify (cfg : Config) (p : LaneId) (w : Nat) : PulseClass :=
  let c := cfg.lane p
  if c.tmin ≤ w ∧ w < c.tsplit then .short
  else if c.tsplit ≤ w ∧ w < c.tmax then .long
  else if tgap p ≤ w then .gap
  else .outOfRange

/-- The class of a data pulse: a step that is past the tests for `X` and `G` sees one of these (R274). -/
inductive Half where
  | short | long
deriving DecidableEq, Repr

/-- `run <- sat_21(run + 1)` (R29). -/
def satRun (run : BitVec 5) : BitVec 5 := BitVec.ofNat 5 (min (run.toNat + 1) runTop)

/-- `repeats <- sat_255(repeats + 1)` (R47, R155). -/
def satRepeats (r : BitVec 8) : BitVec 8 := BitVec.ofNat 8 (min (r.toNat + 1) 255)

/-- "Bits collected", `W*pos + bits`, without wrap (R172). -/
def collected (w : Nat) (l : Lane) : Nat := w * l.pos.toNat + l.bits.toNat

/-- `now -_TIME_BITS last_time` (R154): subtraction modulo `2^TIME_BITS`. -/
def elapsed (timeBits : Nat) (now last : Nat) : Nat :=
  (now % 2 ^ timeBits + (2 ^ timeBits - last % 2 ^ timeBits)) % 2 ^ timeBits

/-- The constraints of R11 on lane `p`. -/
abbrev laneConfigOk (cfg : Config) (p : LaneId) : Prop :=
  (cfg.lane p).tmin < (cfg.lane p).tsplit ∧ (cfg.lane p).tsplit < (cfg.lane p).tmax ∧ (cfg.lane p).tmax ≤ tgap p
    ∧ tgap p < 2 ^ cfg.widthBits ∧ ((cfg.lane p).w = 7 ∨ (cfg.lane p).w = 8)

/-- The constraints of R11: a block whose configuration breaks one is not constructed (U9). -/
abbrev configOk (cfg : Config) : Prop :=
  laneConfigOk cfg .sec ∧ laneConfigOk cfg .em ∧ laneConfigOk cfg .ws ∧ laneConfigOk cfg .sw ∧ 9 ≤ cfg.timeBits

end Sys2Proof.Machine
end

