-- ==== Sys2Proof/Machine/Flags.lean ====
section
/-!
DEFINITION. The one-bit state elements (spec/10_state.md R27) and the one-bit tests of the rules: how each is computed,
once.
-/

namespace Sys2Proof.Machine

/-- The stored form of a class in `prev`: 0 for `S`, 1 for `L` (R30). -/
def Half.toBit : Half → Bool
  | .short => false
  | .long => true

/-- `flip ^ raw` (R132). -/
def flipNext (flip raw : Bool) : Bool := flip ^^ raw

/-- `par ^ v` (R245). -/
def parNext (par v : Bool) : Bool := par ^^ v

/-- Raw bit number `n` is a marker of lane WS (R216). -/
def isMarkerBit (n : BitVec 8) : Bool := n.toNat % wsGroup == 0

/-- Raw bit number `n` is a parity bit of lane SW (R245). -/
def isParityBit (n : BitVec 8) : Bool := n.toNat % swGroup == 0

/-- The message type has just become known: slot 0 is complete and the capture has not happened (R216). -/
def captureDue (l : Lane) : Bool := !l.mvalid && l.pos == 1 && l.bits == 0

/-- The count of raw bits is the one the captured type fixes (R217). -/
def wsCountMatch (l : Lane) : Bool :=
  l.mvalid && ((l.mtype == 1 && l.nbits.toNat == wsLen1) || (l.mtype == 7 && l.nbits.toNat == wsLen7))

/-- The count of raw bits of a normal or an extended message (R246). -/
def swCountMatch (l : Lane) : Bool := l.nbits.toNat == (if l.ext then swLenExt else swLen)

/-- The exclusive or of the first four bytes (R173). -/
def fold4 (m : Memory) : Byte := m.read 0 ^^^ m.read 1 ^^^ m.read 2 ^^^ m.read 3

/-- The low nibble of the fold equals its high nibble (R173). -/
def foldOk (m : Memory) : Bool := (fold4 m).extractLsb' 0 4 == (fold4 m).extractLsb' 4 4

/-- The output `avail` of lane `p` (R52): a function of `state`, not a stored flag. -/
def State.avail (s : State) (p : LaneId) : Bool := (s.lane p).state == .done

/-- The vector `avail[3:0]`, bit `p` for lane `p` (R89). -/
def State.availBits (s : State) : BitVec 4 :=
  BitVec.ofBool (s.avail .sw) ++ BitVec.ofBool (s.avail .ws) ++ BitVec.ofBool (s.avail .em)
    ++ BitVec.ofBool (s.avail .sec)

end Sys2Proof.Machine
end

