-- ==== Sys2Proof/Machine/Dedup.lean ====
section
/-!
DEFINITION. The Duplicate Suppressor (spec/42_dedup.md): the CRC-16 of the packet and the micro-operation ADMIT.
-/

namespace Sys2Proof.Machine

/-- One of the eight rounds of the default update (R152). -/
def crcRound (crc : Crc) : Crc :=
  if crc.getLsbD 0 then (crc >>> 1) ^^^ 0xA001 else crc >>> 1

/-- The default `crc16_update`, reflected polynomial 0xA001 (R152). -/
def crcDefault (crc : Crc) (b : Byte) : Crc :=
  crcRound (crcRound (crcRound (crcRound (crcRound (crcRound (crcRound (crcRound (crc ^^^ b.zeroExtend 16))))))))

/-- The configured `crc16_update` (R152; log 2). -/
def crcUpdate : CrcChoice → Crc → Byte → Crc
  | .default => crcDefault
  | .other n => Config.crcOther n

/-- `packet_crc()` over a byte sequence: seed all ones, no final operation (R153). -/
def crcOf (choice : CrcChoice) (bytes : List Byte) : Crc := bytes.foldl (crcUpdate choice) crcSeed

/-- The packet the lane holds, `data[0..pos-1]` (R65). -/
def Lane.packet (l : Lane) : List Byte := l.data.bytes l.pos.toNat

/-- The decision of ADMIT for a packet with checksum `crc`, and the DedupRecord after it (R151, R154 to R156). -/
def admitRecord (timeBits : Nat) (c : LaneConfig) (crc : Crc) (now : Nat) (d : DedupRecord) :
    Bool × DedupRecord :=
  if crc ≠ d.lastCrc ∨ c.minGap.toNat < elapsed timeBits now d.lastTime then
    (true, { lastCrc := crc, lastTime := now, repeats := 0 })
  else
    let repeats := satRepeats d.repeats
    (repeats == c.minCount, { lastCrc := crc, lastTime := now, repeats := repeats })

/-- ADMIT (R151) over the lane's packet. -/
def admitLane (cfg : Config) (p : LaneId) (now : Nat) (l : Lane) : Res (Bool × Lane) :=
  if cap < l.pos.toNat then .fault (.noSuchSlot l.pos.toNat)
  else
    let r := admitRecord cfg.timeBits (cfg.lane p) (crcOf cfg.crc l.packet) now l.dedup
    .ok (r.1, { l with dedup := r.2 })

/-- The micro-operation ADMIT by itself (R151; log 9): it takes its time from the `now` port (R82) and cannot fail. -/
def execAdmit (p : LaneId) (s : State) : Host.Outcome State Fault Refusal :=
  match admitLane s.cfg p s.now (s.lane p) with
  | .ok (accept, l) => .next ((s.setLane p l).answer (.admitted accept))
  | .fail c => .next ((s.setLane p ((s.lane p).takeFail c)).answer (.micro true))
  | .fault f => .fault f

end Sys2Proof.Machine
end

