-- ==== Sys2Proof/Machine/Accumulator.lean ====
section
/-!
DEFINITION. The Bit Accumulator (spec/41_accumulator.md): the micro-operations APPEND, MANCH, PAD, ALIGN, REVB, REVN and
INVERT over a lane, and their meanings as operations of their own. `w` is the lane's bits per byte, `W[p]` (R9).
-/

namespace Sys2Proof.Machine

/-- A new bit enters at bit 7, the others move toward bit 0 (R62). -/
def shiftIn (v : Bool) (b : Byte) : Byte := (b >>> 1) ||| (if v then 0x80 else 0x00)

/-- `bitrev8(b)[j] = b[7-j]` (R135). -/
def bitrev8 (b : Byte) : Byte :=
  BitVec.ofBool (b.getLsbD 0) ++ BitVec.ofBool (b.getLsbD 1) ++ BitVec.ofBool (b.getLsbD 2)
    ++ BitVec.ofBool (b.getLsbD 3) ++ BitVec.ofBool (b.getLsbD 4) ++ BitVec.ofBool (b.getLsbD 5)
    ++ BitVec.ofBool (b.getLsbD 6) ++ BitVec.ofBool (b.getLsbD 7)

/-- `{b[3:0], b[7:4]}` (R136). -/
def swapNibbles (b : Byte) : Byte := b.extractLsb' 0 4 ++ b.extractLsb' 4 4

/-- The roll of the byte cursor: "the new byte slot is cleared" when it exists (R131). -/
def roll (l : Lane) : Lane :=
  let pos := l.pos + 1
  { l with bits := 0, pos := pos, data := if pos.toNat < cap then l.data.write pos.toNat 0x00 else l.data }

/-- APPEND (R131). -/
def append (w : Nat) (v : Bool) (l : Lane) : Res Lane :=
  if l.pos.toNat = cap then .fail .overflow
  else if cap < l.pos.toNat then .fault (.noSuchSlot l.pos.toNat)
  else
    let l := { l with data := l.data.write l.pos.toNat (shiftIn v (l.data.read l.pos.toNat)), bits := l.bits + 1 }
    .ok (if l.bits.toNat = w then roll l else l)

/-- MANCH (R132): the flip flag is written before the APPEND. -/
def manch (w : Nat) (raw : Bool) (l : Lane) : Res Lane :=
  let flip := flipNext l.flip raw
  append w flip { l with flip := flip }

/-- `while bits != 0: APPEND(0)`, at most `n` times. -/
def padLoop (w : Nat) : Nat → Lane → Res Lane
  | 0, l => .ok l
  | n + 1, l => if l.bits = 0 then .ok l else (append w false l).bind (padLoop w n)

/-- PAD (R133). The 4-bit cursor comes to 0 after at most 15 APPENDs, whatever it holds. -/
def pad (w : Nat) (l : Lane) : Res Lane := padLoop w 15 l

/-- The most recent `max` bytes, moved to the front, the rest cleared (R134, step 2). -/
def keepLast (max pos : Nat) (m : Memory) : Memory :=
  Memory.clear max (cap - max) (Memory.moveDown (pos - max) max m)

/-- ALIGN (R134). -/
def align (w : Nat) (max : BitVec 5) (l : Lane) : Res Lane :=
  (pad w l).bind fun l =>
    if 0 < max.toNat ∧ max.toNat < l.pos.toNat then
      if cap < l.pos.toNat then .fault (.noSuchSlot l.pos.toNat)
      else .ok { l with data := keepLast max.toNat l.pos.toNat l.data, pos := max }
    else .ok l

/-- A byte function applied to every completed byte; the partial slot and the cursors stay (R135, R136). -/
def mapCompleted (f : Byte → Byte) (l : Lane) : Res Lane :=
  if cap < l.pos.toNat then .fault (.noSuchSlot l.pos.toNat)
  else .ok { l with data := Memory.mapSlots f l.pos.toNat l.data }

/-- REVB (R135). -/
def revb (l : Lane) : Res Lane := mapCompleted bitrev8 l

/-- REVN (R136). -/
def revn (l : Lane) : Res Lane := mapCompleted swapNibbles l

/-- INVERT (R137): slots 0 to `min(pos, 24)`, all eight bits of each. -/
def invert (l : Lane) : Lane :=
  { l with data := Memory.mapSlots (fun b => b ^^^ 0xFF) (min l.pos.toNat 24 + 1) l.data }

/-- The micro-operation APPEND by itself (R131; log 9). -/
def execAppend (p : LaneId) (v : Bool) (s : State) : Host.Outcome State Fault Refusal :=
  s.micro p (append (s.cfg.lane p).w v)

/-- The micro-operation MANCH by itself (R132, R139; log 9). -/
def execManch (p : LaneId) (raw : Bool) (s : State) : Host.Outcome State Fault Refusal :=
  s.micro p (manch (s.cfg.lane p).w raw)

/-- The micro-operation PAD by itself (R133; log 9). -/
def execPad (p : LaneId) (s : State) : Host.Outcome State Fault Refusal :=
  s.micro p (pad (s.cfg.lane p).w)

/-- The micro-operation ALIGN by itself (R134, R88; log 9). -/
def execAlign (p : LaneId) (max : BitVec 5) (s : State) : Host.Outcome State Fault Refusal :=
  s.micro p (align (s.cfg.lane p).w max)

/-- The micro-operation REVB by itself (R135; log 9). -/
def execRevb (p : LaneId) (s : State) : Host.Outcome State Fault Refusal :=
  s.micro p revb

/-- The micro-operation REVN by itself (R136; log 9). -/
def execRevn (p : LaneId) (s : State) : Host.Outcome State Fault Refusal :=
  s.micro p revn

/-- The micro-operation INVERT by itself (R137; log 9). -/
def execInvert (p : LaneId) (s : State) : Host.Outcome State Fault Refusal :=
  s.micro p fun l => .ok (invert l)

end Sys2Proof.Machine
end

