-- ==== Sys2Proof/Machine/EmFsm.lean ====
section
/-!
DEFINITION. The protocol state machine of lane EM (spec/44_fsm_em.md R190).
-/

namespace Sys2Proof.Machine

/-- A terminating gap on lane EM, in any state (R191). -/
def emGap (l : Lane) : StepOut :=
  if emMinBytes ≤ l.pos.toNat then .complete l else .fail .gap

/-- The wake tone (R192): more than 20 short pulses in an unbroken run. -/
def emWake (h : Half) (l : Lane) : StepOut :=
  match h with
  | .long => .fail .preamble
  | .short =>
    let l := { l with run := satRun l.run }
    .cont (if emRun < l.run.toNat then { l with state := .sync } else l)

/-- The one more short pulse (R193). -/
def emSync (h : Half) (l : Lane) : StepOut :=
  match h with
  | .long => .fail .preamble
  | .short => .cont { l with state := .confirmed }

/-- One pulse, one bit: long is 1 (R194). -/
def emBit (w : Nat) (h : Half) (l : Lane) : StepOut :=
  (append w (h == .long) l).inStep .cont

/-- A data pulse on lane EM (R192 to R195). -/
def emData (w : Nat) (h : Half) (l : Lane) : StepOut :=
  match l.state with
  | .unknown => emWake h l
  | .sync => emSync h l
  | .confirmed => emBit w h l
  | .phaseA | .phaseB | .trailing | .done | .rsv7 => .fail .state

/-- `step_EM(c)` (R190). -/
def stepEm (w : Nat) (c : PulseClass) (l : Lane) : StepOut :=
  match c with
  | .outOfRange => .fail .range
  | .gap => emGap l
  | .short => emData w .short l
  | .long => emData w .long l

end Sys2Proof.Machine
end

