-- ==== Sys2Proof/Machine/SecFsm.lean ====
section
/-!
DEFINITION. The protocol state machine of lane SEC (spec/43_fsm_sec.md R170) and the two-phase sampler it shares with
lanes WS and SW (R171).
-/

namespace Sys2Proof.Machine

/-- The first half of a pair, in the resting state of the sampler (R171, R174, R214, R243). -/
def firstHalf (h : Half) (l : Lane) : StepOut :=
  .cont { l with state := match h with | .short => .phaseA | .long => .phaseB }

/-- The second half of a pair on lane SEC (R175, R176): the bit is 1 when this half is short; two equal halves are a
sync loss and invert the buffer, the new bit included. -/
def secSecondHalf (w : Nat) (first second : Half) (l : Lane) : StepOut :=
  (append w (second == .short) l).inStep fun l =>
    let l := { l with state := .confirmed }
    .cont (if second = first then invert l else l)

/-- A terminating gap on lane SEC, in any state (R173). -/
def secGap (w : Nat) (l : Lane) : StepOut :=
  if secMinBits ≤ collected w l then
    (align w secKeep l).inStep fun l => if foldOk l.data then .complete l else .fail .check
  else .fail .gap

/-- A data pulse on lane SEC (R174 to R177). -/
def secData (w : Nat) (h : Half) (l : Lane) : StepOut :=
  match l.state with
  | .unknown | .confirmed => firstHalf h l
  | .phaseA => secSecondHalf w .short h l
  | .phaseB => secSecondHalf w .long h l
  | .sync | .trailing | .done | .rsv7 => .fail .state

/-- `step_SEC(c)` (R170). -/
def stepSec (w : Nat) (c : PulseClass) (l : Lane) : StepOut :=
  match c with
  | .outOfRange => .fail .range
  | .gap => secGap w l
  | .short => secData w .short l
  | .long => secData w .long l

end Sys2Proof.Machine
end

