-- ==== Sys2Proof/Machine/SwFsm.lean ====
section
/-!
DEFINITION. The protocol state machine of lane SW (spec/46_fsm_sw.md R240).
-/

namespace Sys2Proof.Machine

/-- A terminating gap on lane SW, in any state: the fallback (R241). -/
def swGap (l : Lane) : StepOut :=
  if swMinBytes ≤ l.pos.toNat then .complete l else .fail .gap

/-- The short run and the long sync pulse (R242). -/
def swRunIn (h : Half) (l : Lane) : StepOut :=
  match h with
  | .short => .cont { l with run := satRun l.run }
  | .long => if swRun < l.run.toNat then .cont { l with state := .confirmed } else .fail .preamble

/-- The last lines of `sw_bit`: the resting state, and termination by count (R245, R246). -/
def swEndBit (l : Lane) : StepOut :=
  let l := { l with state := .confirmed }
  if swCountMatch l then .complete l else .cont l

/-- `sw_bit(v)` (R245, R246): a parity bit is checked, not stored, and clears the accumulator; another bit is
stored. -/
def swBit (w : Nat) (v : Bool) (l : Lane) : StepOut :=
  let l := { l with nbits := l.nbits + 1 }
  if isParityBit l.nbits then
    if v ≠ l.par then .fail .parity else swEndBit { l with par := false }
  else (append w v l).inStep fun l => swEndBit { l with par := parNext l.par v }

/-- The second half of a data pair (R244): equal halves are a bit, long is 1; a mixed pair fails. -/
def swSecondHalf (w : Nat) (first second : Half) (l : Lane) : StepOut :=
  match first, second with
  | .short, .short => swBit w false l
  | .long, .long => swBit w true l
  | .short, .long | .long, .short => .fail .pair

/-- A data pulse on lane SW (R242 to R247). -/
def swData (w : Nat) (h : Half) (l : Lane) : StepOut :=
  match l.state with
  | .unknown => swRunIn h l
  | .confirmed => firstHalf h l
  | .phaseA => swSecondHalf w .short h l
  | .phaseB => swSecondHalf w .long h l
  | .sync | .trailing | .done | .rsv7 => .fail .state

/-- `step_SW(c)` (R240). -/
def stepSw (w : Nat) (c : PulseClass) (l : Lane) : StepOut :=
  match c with
  | .outOfRange => .fail .range
  | .gap => swGap l
  | .short => swData w .short l
  | .long => swData w .long l

end Sys2Proof.Machine
end

