-- ==== Sys2Proof/Machine/WsFsm.lean ====
section
/-!
DEFINITION. The protocol state machine of lane WS (spec/45_fsm_ws.md R210). `marker` is `WS_MARKER` (R10).
-/

namespace Sys2Proof.Machine

/-- A terminating gap on lane WS, in any state: the fallback, which does not test the type (R211). -/
def wsGap (l : Lane) : StepOut :=
  if wsMinBytes ≤ l.pos.toNat then .complete l else .fail .gap

/-- The alternating run (R212). -/
def wsRun (h : Half) (l : Lane) : StepOut :=
  if l.run = 0 then .cont { l with run := 1, prev := h.toBit }
  else if h.toBit ≠ l.prev then .cont { l with run := satRun l.run, prev := h.toBit }
  else if h = .short ∧ wsRunLo ≤ l.run.toNat ∧ l.run.toNat ≤ wsRunHi then .cont { l with state := .sync }
  else .fail .preamble

/-- The second half of the sync pair (R213). -/
def wsSync (h : Half) (l : Lane) : StepOut :=
  match h with
  | .long => .cont { l with state := .confirmed }
  | .short => .fail .preamble

/-- The capture of the message type when slot 0 completes (R216). -/
def wsCapture (l : Lane) : Lane :=
  if captureDue l then { l with mtype := (l.data.read 0).extractLsb' 0 4, mvalid := true } else l

/-- The last lines of `ws_bit`: the resting state, and termination by count (R216, R217). -/
def wsEndBit (l : Lane) : StepOut :=
  let l := { l with state := .confirmed }
  if wsCountMatch l then .complete l else .cont l

/-- `ws_bit(v)` (R216, R217): a marker is checked and not stored; another bit is stored. -/
def wsBit (w : Nat) (marker v : Bool) (l : Lane) : StepOut :=
  let l := { l with nbits := l.nbits + 1 }
  if isMarkerBit l.nbits then
    if v ≠ marker then .fail .marker else wsEndBit l
  else (append w v l).inStep fun l => wsEndBit (wsCapture l)

/-- The second half of a data pair (R215): short then long is 1, long then short is 0, equal halves fail. -/
def wsSecondHalf (w : Nat) (marker : Bool) (first second : Half) (l : Lane) : StepOut :=
  match first, second with
  | .short, .long => wsBit w marker true l
  | .long, .short => wsBit w marker false l
  | .short, .short | .long, .long => .fail .pair

/-- A data pulse on lane WS (R212 to R218). -/
def wsData (w : Nat) (marker : Bool) (h : Half) (l : Lane) : StepOut :=
  match l.state with
  | .unknown => wsRun h l
  | .sync => wsSync h l
  | .confirmed => firstHalf h l
  | .phaseA => wsSecondHalf w marker .short h l
  | .phaseB => wsSecondHalf w marker .long h l
  | .trailing | .done | .rsv7 => .fail .state

/-- `step_WS(c)` (R210). -/
def stepWs (w : Nat) (marker : Bool) (c : PulseClass) (l : Lane) : StepOut :=
  match c with
  | .outOfRange => .fail .range
  | .gap => wsGap l
  | .short => wsData w marker .short l
  | .long => wsData w marker .long l

end Sys2Proof.Machine
end

