-- ==== Sys2Proof/Machine/Driver.lean ====
section
/-!
DEFINITION. The Decoder Driver (spec/40_driver.md): what it does with a pulse on one lane, and the meanings of the host
operations NOP, FEED, TAKE, RESET and of the reserved `op` values.
-/

namespace Sys2Proof.Machine

/-- `step_p(c)`: the closed set of state machines, selected by the lane's identity (R73, R170, R190, R210, R240). -/
def laneStep (cfg : Config) (p : LaneId) (c : PulseClass) (l : Lane) : StepOut :=
  match p with
  | .sec => stepSec (cfg.lane .sec).w c l
  | .em => stepEm (cfg.lane .em).w c l
  | .ws => stepWs (cfg.lane .ws).w cfg.wsMarker c l
  | .sw => stepSw (cfg.lane .sw).w c l

/-- `POST[p]` (R115, R138). -/
def applyPost : Post → Lane → Res Lane
  | .none, l => .ok l
  | .revb, l => revb l
  | .revn, l => revn l

/-- A completed packet that is padded and post-processed goes to ADMIT: held, or dropped by the lane reset
(R115, steps 3 and 4). -/
def handOver (cfg : Config) (p : LaneId) (now : Nat) (l : Lane) : Res Lane :=
  (admitLane cfg p now l).bind fun r => .ok (if r.1 then { r.2 with state := .done } else r.2.reset)

/-- On `Complete` (R115): PAD, post-processing, ADMIT. -/
def completeLane (cfg : Config) (p : LaneId) (now : Nat) (l : Lane) : Res Lane :=
  (pad (cfg.lane p).w l).bind fun l => (applyPost (cfg.lane p).post l).bind fun l => handOver cfg p now l

/-- What the driver does with the outcome of a step (R111). -/
def StepOut.finish (cfg : Config) (p : LaneId) (now : Nat) : StepOut → Res Lane
  | .cont l => .ok l
  | .complete l => completeLane cfg p now l
  | .fail c => .fail c
  | .fault f => .fault f

/-- The lane-level FEED of a classified pulse, `FEED_p` (R111): a lane that holds a packet ignores it (R113); a `Fail`
is taken (R114). -/
def laneFeed (cfg : Config) (p : LaneId) (now : Nat) (c : PulseClass) (l : Lane) : Except Fault Lane :=
  if l.state = .done then .ok l
  else ((laneStep cfg p c l).finish cfg p now).settle l

/-- The lane-level FEED of a width, on lane `p` of the block (R110, R112). -/
def feedLane (width : Nat) (p : LaneId) (s : State) : Except Fault State :=
  (laneFeed s.cfg p s.now (classify s.cfg p width) (s.lane p)).map (s.setLane p)

/-- The meaning of the transition key `{p, st, c}` (R83): what one lane-level FEED of class `c` makes lane `p` do when
its `state` is `st`. The key carries the state, so the lane is taken in that state (log 8). -/
def transition (p : LaneId) (st : DecState) (c : PulseClass) (s : State) : Host.Outcome State Fault Refusal :=
  match laneFeed s.cfg p s.now c { s.lane p with state := st } with
  | .ok l => .next ((s.setLane p l).answer (.laneFed (l.state == .done)))
  | .error f => .fault f

/-- The port refuses the word: status ILLEGAL, no lane changes (R87; log 6). -/
def State.answerIllegal (s : State) : State := s.answer .illegal

/-- NOP (R120). -/
def execNop (s : State) : Host.Outcome State Fault Refusal := .next (s.answer .ok)

/-- FEED (R110): the same width and the same `now` to every lane, in ascending number (U12). -/
def execFeed (width : Nat) (s : State) : Host.Outcome State Fault Refusal :=
  match (((feedLane width .sec s).bind (feedLane width .em)).bind (feedLane width .ws)).bind (feedLane width .sw) with
  | .ok s' => .next (s'.answer (.fed s'.availBits))
  | .error f => .fault f

/-- TAKE (R116): the snapshot first, then the lane reset; NOPACKET and no change where the lane holds no packet
(log 7). -/
def execTake (p : LaneId) (s : State) : Host.Outcome State Fault Refusal :=
  let l := s.lane p
  if l.state = .done then
    if cap < l.pos.toNat then .fault (.noSuchSlot l.pos.toNat)
    else .next ((s.setLane p l.reset).answer (.packet l.pos l.packet))
  else .next (s.answer .noPacket)

/-- RESET (R117): the lane reset, in every state. -/
def execReset (p : LaneId) (s : State) : Host.Outcome State Fault Refusal :=
  .next ((s.setLane p (s.lane p).reset).answer .ok)

/-- `op` 0x4 (R87; log 6). -/
def execReserved4 (s : State) : Host.Outcome State Fault Refusal := .next s.answerIllegal

/-- `op` 0x5 (R87; log 6). -/
def execReserved5 (s : State) : Host.Outcome State Fault Refusal := .next s.answerIllegal

/-- `op` 0x6 (R87; log 6). -/
def execReserved6 (s : State) : Host.Outcome State Fault Refusal := .next s.answerIllegal

/-- `op` 0x7 (R87; log 6). -/
def execReserved7 (s : State) : Host.Outcome State Fault Refusal := .next s.answerIllegal

end Sys2Proof.Machine
end

