-- ==== Sys2Proof/Machine/EmRows.lean ====
section
/-!
DEFINITION. The meanings of the 32 transition keys of lane EM (spec/30_encoding.md R85, spec/44_fsm_em.md): one lane-level FEED
of the key's class in the key's state.
-/

namespace Sys2Proof.Machine

/-- `T.EM.Unknown.S` (R192). -/
def execTEmUnknownS (s : State) : Host.Outcome State Fault Refusal := transition .em .unknown .short s

/-- `T.EM.Unknown.L` (R192). -/
def execTEmUnknownL (s : State) : Host.Outcome State Fault Refusal := transition .em .unknown .long s

/-- `T.EM.Unknown.G` (R191). -/
def execTEmUnknownG (s : State) : Host.Outcome State Fault Refusal := transition .em .unknown .gap s

/-- `T.EM.Unknown.X` (R118). -/
def execTEmUnknownX (s : State) : Host.Outcome State Fault Refusal := transition .em .unknown .outOfRange s

/-- `T.EM.Sync.S` (R193). -/
def execTEmSyncS (s : State) : Host.Outcome State Fault Refusal := transition .em .sync .short s

/-- `T.EM.Sync.L` (R193). -/
def execTEmSyncL (s : State) : Host.Outcome State Fault Refusal := transition .em .sync .long s

/-- `T.EM.Sync.G` (R191). -/
def execTEmSyncG (s : State) : Host.Outcome State Fault Refusal := transition .em .sync .gap s

/-- `T.EM.Sync.X` (R118). -/
def execTEmSyncX (s : State) : Host.Outcome State Fault Refusal := transition .em .sync .outOfRange s

/-- `T.EM.PhaseA.S` (R195). -/
def execTEmPhaseAS (s : State) : Host.Outcome State Fault Refusal := transition .em .phaseA .short s

/-- `T.EM.PhaseA.L` (R195). -/
def execTEmPhaseAL (s : State) : Host.Outcome State Fault Refusal := transition .em .phaseA .long s

/-- `T.EM.PhaseA.G` (R191). -/
def execTEmPhaseAG (s : State) : Host.Outcome State Fault Refusal := transition .em .phaseA .gap s

/-- `T.EM.PhaseA.X` (R118). -/
def execTEmPhaseAX (s : State) : Host.Outcome State Fault Refusal := transition .em .phaseA .outOfRange s

/-- `T.EM.PhaseB.S` (R195). -/
def execTEmPhaseBS (s : State) : Host.Outcome State Fault Refusal := transition .em .phaseB .short s

/-- `T.EM.PhaseB.L` (R195). -/
def execTEmPhaseBL (s : State) : Host.Outcome State Fault Refusal := transition .em .phaseB .long s

/-- `T.EM.PhaseB.G` (R191). -/
def execTEmPhaseBG (s : State) : Host.Outcome State Fault Refusal := transition .em .phaseB .gap s

/-- `T.EM.PhaseB.X` (R118). -/
def execTEmPhaseBX (s : State) : Host.Outcome State Fault Refusal := transition .em .phaseB .outOfRange s

/-- `T.EM.Confirmed.S` (R194). -/
def execTEmConfirmedS (s : State) : Host.Outcome State Fault Refusal := transition .em .confirmed .short s

/-- `T.EM.Confirmed.L` (R194). -/
def execTEmConfirmedL (s : State) : Host.Outcome State Fault Refusal := transition .em .confirmed .long s

/-- `T.EM.Confirmed.G` (R191). -/
def execTEmConfirmedG (s : State) : Host.Outcome State Fault Refusal := transition .em .confirmed .gap s

/-- `T.EM.Confirmed.X` (R118). -/
def execTEmConfirmedX (s : State) : Host.Outcome State Fault Refusal := transition .em .confirmed .outOfRange s

/-- `T.EM.Trailing.S` (R195). -/
def execTEmTrailingS (s : State) : Host.Outcome State Fault Refusal := transition .em .trailing .short s

/-- `T.EM.Trailing.L` (R195). -/
def execTEmTrailingL (s : State) : Host.Outcome State Fault Refusal := transition .em .trailing .long s

/-- `T.EM.Trailing.G` (R191). -/
def execTEmTrailingG (s : State) : Host.Outcome State Fault Refusal := transition .em .trailing .gap s

/-- `T.EM.Trailing.X` (R118). -/
def execTEmTrailingX (s : State) : Host.Outcome State Fault Refusal := transition .em .trailing .outOfRange s

/-- `T.EM.Done.S` (R113). -/
def execTEmDoneS (s : State) : Host.Outcome State Fault Refusal := transition .em .done .short s

/-- `T.EM.Done.L` (R113). -/
def execTEmDoneL (s : State) : Host.Outcome State Fault Refusal := transition .em .done .long s

/-- `T.EM.Done.G` (R113). -/
def execTEmDoneG (s : State) : Host.Outcome State Fault Refusal := transition .em .done .gap s

/-- `T.EM.Done.X` (R113). -/
def execTEmDoneX (s : State) : Host.Outcome State Fault Refusal := transition .em .done .outOfRange s

/-- `T.EM.Rsv7.S` (R195). -/
def execTEmRsv7S (s : State) : Host.Outcome State Fault Refusal := transition .em .rsv7 .short s

/-- `T.EM.Rsv7.L` (R195). -/
def execTEmRsv7L (s : State) : Host.Outcome State Fault Refusal := transition .em .rsv7 .long s

/-- `T.EM.Rsv7.G` (R191). -/
def execTEmRsv7G (s : State) : Host.Outcome State Fault Refusal := transition .em .rsv7 .gap s

/-- `T.EM.Rsv7.X` (R118). -/
def execTEmRsv7X (s : State) : Host.Outcome State Fault Refusal := transition .em .rsv7 .outOfRange s

end Sys2Proof.Machine
end

