-- ==== Sys2Proof/Machine/SecRows.lean ====
section
/-!
DEFINITION. The meanings of the 32 transition keys of lane SEC (spec/30_encoding.md R85, spec/43_fsm_sec.md): one lane-level FEED
of the key's class in the key's state.
-/

namespace Sys2Proof.Machine

/-- `T.SEC.Unknown.S` (R174). -/
def execTSecUnknownS (s : State) : Host.Outcome State Fault Refusal := transition .sec .unknown .short s

/-- `T.SEC.Unknown.L` (R174). -/
def execTSecUnknownL (s : State) : Host.Outcome State Fault Refusal := transition .sec .unknown .long s

/-- `T.SEC.Unknown.G` (R173). -/
def execTSecUnknownG (s : State) : Host.Outcome State Fault Refusal := transition .sec .unknown .gap s

/-- `T.SEC.Unknown.X` (R118). -/
def execTSecUnknownX (s : State) : Host.Outcome State Fault Refusal := transition .sec .unknown .outOfRange s

/-- `T.SEC.Sync.S` (R177). -/
def execTSecSyncS (s : State) : Host.Outcome State Fault Refusal := transition .sec .sync .short s

/-- `T.SEC.Sync.L` (R177). -/
def execTSecSyncL (s : State) : Host.Outcome State Fault Refusal := transition .sec .sync .long s

/-- `T.SEC.Sync.G` (R173). -/
def execTSecSyncG (s : State) : Host.Outcome State Fault Refusal := transition .sec .sync .gap s

/-- `T.SEC.Sync.X` (R118). -/
def execTSecSyncX (s : State) : Host.Outcome State Fault Refusal := transition .sec .sync .outOfRange s

/-- `T.SEC.PhaseA.S` (R175). -/
def execTSecPhaseAS (s : State) : Host.Outcome State Fault Refusal := transition .sec .phaseA .short s

/-- `T.SEC.PhaseA.L` (R175). -/
def execTSecPhaseAL (s : State) : Host.Outcome State Fault Refusal := transition .sec .phaseA .long s

/-- `T.SEC.PhaseA.G` (R173). -/
def execTSecPhaseAG (s : State) : Host.Outcome State Fault Refusal := transition .sec .phaseA .gap s

/-- `T.SEC.PhaseA.X` (R118). -/
def execTSecPhaseAX (s : State) : Host.Outcome State Fault Refusal := transition .sec .phaseA .outOfRange s

/-- `T.SEC.PhaseB.S` (R176). -/
def execTSecPhaseBS (s : State) : Host.Outcome State Fault Refusal := transition .sec .phaseB .short s

/-- `T.SEC.PhaseB.L` (R176). -/
def execTSecPhaseBL (s : State) : Host.Outcome State Fault Refusal := transition .sec .phaseB .long s

/-- `T.SEC.PhaseB.G` (R173). -/
def execTSecPhaseBG (s : State) : Host.Outcome State Fault Refusal := transition .sec .phaseB .gap s

/-- `T.SEC.PhaseB.X` (R118). -/
def execTSecPhaseBX (s : State) : Host.Outcome State Fault Refusal := transition .sec .phaseB .outOfRange s

/-- `T.SEC.Confirmed.S` (R174). -/
def execTSecConfirmedS (s : State) : Host.Outcome State Fault Refusal := transition .sec .confirmed .short s

/-- `T.SEC.Confirmed.L` (R174). -/
def execTSecConfirmedL (s : State) : Host.Outcome State Fault Refusal := transition .sec .confirmed .long s

/-- `T.SEC.Confirmed.G` (R173). -/
def execTSecConfirmedG (s : State) : Host.Outcome State Fault Refusal := transition .sec .confirmed .gap s

/-- `T.SEC.Confirmed.X` (R118). -/
def execTSecConfirmedX (s : State) : Host.Outcome State Fault Refusal := transition .sec .confirmed .outOfRange s

/-- `T.SEC.Trailing.S` (R177). -/
def execTSecTrailingS (s : State) : Host.Outcome State Fault Refusal := transition .sec .trailing .short s

/-- `T.SEC.Trailing.L` (R177). -/
def execTSecTrailingL (s : State) : Host.Outcome State Fault Refusal := transition .sec .trailing .long s

/-- `T.SEC.Trailing.G` (R173). -/
def execTSecTrailingG (s : State) : Host.Outcome State Fault Refusal := transition .sec .trailing .gap s

/-- `T.SEC.Trailing.X` (R118). -/
def execTSecTrailingX (s : State) : Host.Outcome State Fault Refusal := transition .sec .trailing .outOfRange s

/-- `T.SEC.Done.S` (R113). -/
def execTSecDoneS (s : State) : Host.Outcome State Fault Refusal := transition .sec .done .short s

/-- `T.SEC.Done.L` (R113). -/
def execTSecDoneL (s : State) : Host.Outcome State Fault Refusal := transition .sec .done .long s

/-- `T.SEC.Done.G` (R113). -/
def execTSecDoneG (s : State) : Host.Outcome State Fault Refusal := transition .sec .done .gap s

/-- `T.SEC.Done.X` (R113). -/
def execTSecDoneX (s : State) : Host.Outcome State Fault Refusal := transition .sec .done .outOfRange s

/-- `T.SEC.Rsv7.S` (R177). -/
def execTSecRsv7S (s : State) : Host.Outcome State Fault Refusal := transition .sec .rsv7 .short s

/-- `T.SEC.Rsv7.L` (R177). -/
def execTSecRsv7L (s : State) : Host.Outcome State Fault Refusal := transition .sec .rsv7 .long s

/-- `T.SEC.Rsv7.G` (R173). -/
def execTSecRsv7G (s : State) : Host.Outcome State Fault Refusal := transition .sec .rsv7 .gap s

/-- `T.SEC.Rsv7.X` (R118). -/
def execTSecRsv7X (s : State) : Host.Outcome State Fault Refusal := transition .sec .rsv7 .outOfRange s

end Sys2Proof.Machine
end

