-- ==== Sys2Proof/Machine/SwRows.lean ====
section
/-!
DEFINITION. The meanings of the 32 transition keys of lane SW (spec/30_encoding.md R85, spec/46_fsm_sw.md): one lane-level FEED
of the key's class in the key's state.
-/

namespace Sys2Proof.Machine

/-- `T.SW.Unknown.S` (R242). -/
def execTSwUnknownS (s : State) : Host.Outcome State Fault Refusal := transition .sw .unknown .short s

/-- `T.SW.Unknown.L` (R242). -/
def execTSwUnknownL (s : State) : Host.Outcome State Fault Refusal := transition .sw .unknown .long s

/-- `T.SW.Unknown.G` (R241). -/
def execTSwUnknownG (s : State) : Host.Outcome State Fault Refusal := transition .sw .unknown .gap s

/-- `T.SW.Unknown.X` (R118). -/
def execTSwUnknownX (s : State) : Host.Outcome State Fault Refusal := transition .sw .unknown .outOfRange s

/-- `T.SW.Sync.S` (R247). -/
def execTSwSyncS (s : State) : Host.Outcome State Fault Refusal := transition .sw .sync .short s

/-- `T.SW.Sync.L` (R247). -/
def execTSwSyncL (s : State) : Host.Outcome State Fault Refusal := transition .sw .sync .long s

/-- `T.SW.Sync.G` (R241). -/
def execTSwSyncG (s : State) : Host.Outcome State Fault Refusal := transition .sw .sync .gap s

/-- `T.SW.Sync.X` (R118). -/
def execTSwSyncX (s : State) : Host.Outcome State Fault Refusal := transition .sw .sync .outOfRange s

/-- `T.SW.PhaseA.S` (R244). -/
def execTSwPhaseAS (s : State) : Host.Outcome State Fault Refusal := transition .sw .phaseA .short s

/-- `T.SW.PhaseA.L` (R244). -/
def execTSwPhaseAL (s : State) : Host.Outcome State Fault Refusal := transition .sw .phaseA .long s

/-- `T.SW.PhaseA.G` (R241). -/
def execTSwPhaseAG (s : State) : Host.Outcome State Fault Refusal := transition .sw .phaseA .gap s

/-- `T.SW.PhaseA.X` (R118). -/
def execTSwPhaseAX (s : State) : Host.Outcome State Fault Refusal := transition .sw .phaseA .outOfRange s

/-- `T.SW.PhaseB.S` (R244). -/
def execTSwPhaseBS (s : State) : Host.Outcome State Fault Refusal := transition .sw .phaseB .short s

/-- `T.SW.PhaseB.L` (R244). -/
def execTSwPhaseBL (s : State) : Host.Outcome State Fault Refusal := transition .sw .phaseB .long s

/-- `T.SW.PhaseB.G` (R241). -/
def execTSwPhaseBG (s : State) : Host.Outcome State Fault Refusal := transition .sw .phaseB .gap s

/-- `T.SW.PhaseB.X` (R118). -/
def execTSwPhaseBX (s : State) : Host.Outcome State Fault Refusal := transition .sw .phaseB .outOfRange s

/-- `T.SW.Confirmed.S` (R243). -/
def execTSwConfirmedS (s : State) : Host.Outcome State Fault Refusal := transition .sw .confirmed .short s

/-- `T.SW.Confirmed.L` (R243). -/
def execTSwConfirmedL (s : State) : Host.Outcome State Fault Refusal := transition .sw .confirmed .long s

/-- `T.SW.Confirmed.G` (R241). -/
def execTSwConfirmedG (s : State) : Host.Outcome State Fault Refusal := transition .sw .confirmed .gap s

/-- `T.SW.Confirmed.X` (R118). -/
def execTSwConfirmedX (s : State) : Host.Outcome State Fault Refusal := transition .sw .confirmed .outOfRange s

/-- `T.SW.Trailing.S` (R247). -/
def execTSwTrailingS (s : State) : Host.Outcome State Fault Refusal := transition .sw .trailing .short s

/-- `T.SW.Trailing.L` (R247). -/
def execTSwTrailingL (s : State) : Host.Outcome State Fault Refusal := transition .sw .trailing .long s

/-- `T.SW.Trailing.G` (R241). -/
def execTSwTrailingG (s : State) : Host.Outcome State Fault Refusal := transition .sw .trailing .gap s

/-- `T.SW.Trailing.X` (R118). -/
def execTSwTrailingX (s : State) : Host.Outcome State Fault Refusal := transition .sw .trailing .outOfRange s

/-- `T.SW.Done.S` (R113). -/
def execTSwDoneS (s : State) : Host.Outcome State Fault Refusal := transition .sw .done .short s

/-- `T.SW.Done.L` (R113). -/
def execTSwDoneL (s : State) : Host.Outcome State Fault Refusal := transition .sw .done .long s

/-- `T.SW.Done.G` (R113). -/
def execTSwDoneG (s : State) : Host.Outcome State Fault Refusal := transition .sw .done .gap s

/-- `T.SW.Done.X` (R113). -/
def execTSwDoneX (s : State) : Host.Outcome State Fault Refusal := transition .sw .done .outOfRange s

/-- `T.SW.Rsv7.S` (R247). -/
def execTSwRsv7S (s : State) : Host.Outcome State Fault Refusal := transition .sw .rsv7 .short s

/-- `T.SW.Rsv7.L` (R247). -/
def execTSwRsv7L (s : State) : Host.Outcome State Fault Refusal := transition .sw .rsv7 .long s

/-- `T.SW.Rsv7.G` (R241). -/
def execTSwRsv7G (s : State) : Host.Outcome State Fault Refusal := transition .sw .rsv7 .gap s

/-- `T.SW.Rsv7.X` (R118). -/
def execTSwRsv7X (s : State) : Host.Outcome State Fault Refusal := transition .sw .rsv7 .outOfRange s

end Sys2Proof.Machine
end

