-- ==== Sys2Proof/Machine/WsRows.lean ====
section
/-!
DEFINITION. The meanings of the 32 transition keys of lane WS (spec/30_encoding.md R85, spec/45_fsm_ws.md): one lane-level FEED
of the key's class in the key's state.
-/

namespace Sys2Proof.Machine

/-- `T.WS.Unknown.S` (R212). -/
def execTWsUnknownS (s : State) : Host.Outcome State Fault Refusal := transition .ws .unknown .short s

/-- `T.WS.Unknown.L` (R212). -/
def execTWsUnknownL (s : State) : Host.Outcome State Fault Refusal := transition .ws .unknown .long s

/-- `T.WS.Unknown.G` (R211). -/
def execTWsUnknownG (s : State) : Host.Outcome State Fault Refusal := transition .ws .unknown .gap s

/-- `T.WS.Unknown.X` (R118). -/
def execTWsUnknownX (s : State) : Host.Outcome State Fault Refusal := transition .ws .unknown .outOfRange s

/-- `T.WS.Sync.S` (R213). -/
def execTWsSyncS (s : State) : Host.Outcome State Fault Refusal := transition .ws .sync .short s

/-- `T.WS.Sync.L` (R213). -/
def execTWsSyncL (s : State) : Host.Outcome State Fault Refusal := transition .ws .sync .long s

/-- `T.WS.Sync.G` (R211). -/
def execTWsSyncG (s : State) : Host.Outcome State Fault Refusal := transition .ws .sync .gap s

/-- `T.WS.Sync.X` (R118). -/
def execTWsSyncX (s : State) : Host.Outcome State Fault Refusal := transition .ws .sync .outOfRange s

/-- `T.WS.PhaseA.S` (R215). -/
def execTWsPhaseAS (s : State) : Host.Outcome State Fault Refusal := transition .ws .phaseA .short s

/-- `T.WS.PhaseA.L` (R215). -/
def execTWsPhaseAL (s : State) : Host.Outcome State Fault Refusal := transition .ws .phaseA .long s

/-- `T.WS.PhaseA.G` (R211). -/
def execTWsPhaseAG (s : State) : Host.Outcome State Fault Refusal := transition .ws .phaseA .gap s

/-- `T.WS.PhaseA.X` (R118). -/
def execTWsPhaseAX (s : State) : Host.Outcome State Fault Refusal := transition .ws .phaseA .outOfRange s

/-- `T.WS.PhaseB.S` (R215). -/
def execTWsPhaseBS (s : State) : Host.Outcome State Fault Refusal := transition .ws .phaseB .short s

/-- `T.WS.PhaseB.L` (R215). -/
def execTWsPhaseBL (s : State) : Host.Outcome State Fault Refusal := transition .ws .phaseB .long s

/-- `T.WS.PhaseB.G` (R211). -/
def execTWsPhaseBG (s : State) : Host.Outcome State Fault Refusal := transition .ws .phaseB .gap s

/-- `T.WS.PhaseB.X` (R118). -/
def execTWsPhaseBX (s : State) : Host.Outcome State Fault Refusal := transition .ws .phaseB .outOfRange s

/-- `T.WS.Confirmed.S` (R214). -/
def execTWsConfirmedS (s : State) : Host.Outcome State Fault Refusal := transition .ws .confirmed .short s

/-- `T.WS.Confirmed.L` (R214). -/
def execTWsConfirmedL (s : State) : Host.Outcome State Fault Refusal := transition .ws .confirmed .long s

/-- `T.WS.Confirmed.G` (R211). -/
def execTWsConfirmedG (s : State) : Host.Outcome State Fault Refusal := transition .ws .confirmed .gap s

/-- `T.WS.Confirmed.X` (R118). -/
def execTWsConfirmedX (s : State) : Host.Outcome State Fault Refusal := transition .ws .confirmed .outOfRange s

/-- `T.WS.Trailing.S` (R218). -/
def execTWsTrailingS (s : State) : Host.Outcome State Fault Refusal := transition .ws .trailing .short s

/-- `T.WS.Trailing.L` (R218). -/
def execTWsTrailingL (s : State) : Host.Outcome State Fault Refusal := transition .ws .trailing .long s

/-- `T.WS.Trailing.G` (R211). -/
def execTWsTrailingG (s : State) : Host.Outcome State Fault Refusal := transition .ws .trailing .gap s

/-- `T.WS.Trailing.X` (R118). -/
def execTWsTrailingX (s : State) : Host.Outcome State Fault Refusal := transition .ws .trailing .outOfRange s

/-- `T.WS.Done.S` (R113). -/
def execTWsDoneS (s : State) : Host.Outcome State Fault Refusal := transition .ws .done .short s

/-- `T.WS.Done.L` (R113). -/
def execTWsDoneL (s : State) : Host.Outcome State Fault Refusal := transition .ws .done .long s

/-- `T.WS.Done.G` (R113). -/
def execTWsDoneG (s : State) : Host.Outcome State Fault Refusal := transition .ws .done .gap s

/-- `T.WS.Done.X` (R113). -/
def execTWsDoneX (s : State) : Host.Outcome State Fault Refusal := transition .ws .done .outOfRange s

/-- `T.WS.Rsv7.S` (R218). -/
def execTWsRsv7S (s : State) : Host.Outcome State Fault Refusal := transition .ws .rsv7 .short s

/-- `T.WS.Rsv7.L` (R218). -/
def execTWsRsv7L (s : State) : Host.Outcome State Fault Refusal := transition .ws .rsv7 .long s

/-- `T.WS.Rsv7.G` (R211). -/
def execTWsRsv7G (s : State) : Host.Outcome State Fault Refusal := transition .ws .rsv7 .gap s

/-- `T.WS.Rsv7.X` (R118). -/
def execTWsRsv7X (s : State) : Host.Outcome State Fault Refusal := transition .ws .rsv7 .outOfRange s

end Sys2Proof.Machine
end

