-- ==== Sys2Proof/Machine/Dispatch.lean ====
section
/-!
DEFINITION. The one dispatch from an instruction to its meaning.
-/

namespace Sys2Proof.Machine

def exec (i : Instr) (s : State) : Host.Outcome State Fault Refusal :=
  match i with
  | .nop => Sys2Proof.Machine.execNop s
  | .feed width => Sys2Proof.Machine.execFeed width s
  | .take p => Sys2Proof.Machine.execTake p s
  | .reset p => Sys2Proof.Machine.execReset p s
  | .reserved4 => Sys2Proof.Machine.execReserved4 s
  | .reserved5 => Sys2Proof.Machine.execReserved5 s
  | .reserved6 => Sys2Proof.Machine.execReserved6 s
  | .reserved7 => Sys2Proof.Machine.execReserved7 s
  | .append p v => Sys2Proof.Machine.execAppend p v s
  | .manch p raw => Sys2Proof.Machine.execManch p raw s
  | .pad p => Sys2Proof.Machine.execPad p s
  | .align p max => Sys2Proof.Machine.execAlign p max s
  | .revb p => Sys2Proof.Machine.execRevb p s
  | .revn p => Sys2Proof.Machine.execRevn p s
  | .invert p => Sys2Proof.Machine.execInvert p s
  | .admitPacket p => Sys2Proof.Machine.execAdmit p s
  | .tSecUnknownS => Sys2Proof.Machine.execTSecUnknownS s
  | .tSecUnknownL => Sys2Proof.Machine.execTSecUnknownL s
  | .tSecUnknownG => Sys2Proof.Machine.execTSecUnknownG s
  | .tSecUnknownX => Sys2Proof.Machine.execTSecUnknownX s
  | .tSecSyncS => Sys2Proof.Machine.execTSecSyncS s
  | .tSecSyncL => Sys2Proof.Machine.execTSecSyncL s
  | .tSecSyncG => Sys2Proof.Machine.execTSecSyncG s
  | .tSecSyncX => Sys2Proof.Machine.execTSecSyncX s
  | .tSecPhaseAS => Sys2Proof.Machine.execTSecPhaseAS s
  | .tSecPhaseAL => Sys2Proof.Machine.execTSecPhaseAL s
  | .tSecPhaseAG => Sys2Proof.Machine.execTSecPhaseAG s
  | .tSecPhaseAX => Sys2Proof.Machine.execTSecPhaseAX s
  | .tSecPhaseBS => Sys2Proof.Machine.execTSecPhaseBS s
  | .tSecPhaseBL => Sys2Proof.Machine.execTSecPhaseBL s
  | .tSecPhaseBG => Sys2Proof.Machine.execTSecPhaseBG s
  | .tSecPhaseBX => Sys2Proof.Machine.execTSecPhaseBX s
  | .tSecConfirmedS => Sys2Proof.Machine.execTSecConfirmedS s
  | .tSecConfirmedL => Sys2Proof.Machine.execTSecConfirmedL s
  | .tSecConfirmedG => Sys2Proof.Machine.execTSecConfirmedG s
  | .tSecConfirmedX => Sys2Proof.Machine.execTSecConfirmedX s
  | .tSecTrailingS => Sys2Proof.Machine.execTSecTrailingS s
  | .tSecTrailingL => Sys2Proof.Machine.execTSecTrailingL s
  | .tSecTrailingG => Sys2Proof.Machine.execTSecTrailingG s
  | .tSecTrailingX => Sys2Proof.Machine.execTSecTrailingX s
  | .tSecDoneS => Sys2Proof.Machine.execTSecDoneS s
  | .tSecDoneL => Sys2Proof.Machine.execTSecDoneL s
  | .tSecDoneG => Sys2Proof.Machine.execTSecDoneG s
  | .tSecDoneX => Sys2Proof.Machine.execTSecDoneX s
  | .tSecRsv7S => Sys2Proof.Machine.execTSecRsv7S s
  | .tSecRsv7L => Sys2Proof.Machine.execTSecRsv7L s
  | .tSecRsv7G => Sys2Proof.Machine.execTSecRsv7G s
  | .tSecRsv7X => Sys2Proof.Machine.execTSecRsv7X s
  | .tEmUnknownS => Sys2Proof.Machine.execTEmUnknownS s
  | .tEmUnknownL => Sys2Proof.Machine.execTEmUnknownL s
  | .tEmUnknownG => Sys2Proof.Machine.execTEmUnknownG s
  | .tEmUnknownX => Sys2Proof.Machine.execTEmUnknownX s
  | .tEmSyncS => Sys2Proof.Machine.execTEmSyncS s
  | .tEmSyncL => Sys2Proof.Machine.execTEmSyncL s
  | .tEmSyncG => Sys2Proof.Machine.execTEmSyncG s
  | .tEmSyncX => Sys2Proof.Machine.execTEmSyncX s
  | .tEmPhaseAS => Sys2Proof.Machine.execTEmPhaseAS s
  | .tEmPhaseAL => Sys2Proof.Machine.execTEmPhaseAL s
  | .tEmPhaseAG => Sys2Proof.Machine.execTEmPhaseAG s
  | .tEmPhaseAX => Sys2Proof.Machine.execTEmPhaseAX s
  | .tEmPhaseBS => Sys2Proof.Machine.execTEmPhaseBS s
  | .tEmPhaseBL => Sys2Proof.Machine.execTEmPhaseBL s
  | .tEmPhaseBG => Sys2Proof.Machine.execTEmPhaseBG s
  | .tEmPhaseBX => Sys2Proof.Machine.execTEmPhaseBX s
  | .tEmConfirmedS => Sys2Proof.Machine.execTEmConfirmedS s
  | .tEmConfirmedL => Sys2Proof.Machine.execTEmConfirmedL s
  | .tEmConfirmedG => Sys2Proof.Machine.execTEmConfirmedG s
  | .tEmConfirmedX => Sys2Proof.Machine.execTEmConfirmedX s
  | .tEmTrailingS => Sys2Proof.Machine.execTEmTrailingS s
  | .tEmTrailingL => Sys2Proof.Machine.execTEmTrailingL s
  | .tEmTrailingG => Sys2Proof.Machine.execTEmTrailingG s
  | .tEmTrailingX => Sys2Proof.Machine.execTEmTrailingX s
  | .tEmDoneS => Sys2Proof.Machine.execTEmDoneS s
  | .tEmDoneL => Sys2Proof.Machine.execTEmDoneL s
  | .tEmDoneG => Sys2Proof.Machine.execTEmDoneG s
  | .tEmDoneX => Sys2Proof.Machine.execTEmDoneX s
  | .tEmRsv7S => Sys2Proof.Machine.execTEmRsv7S s
  | .tEmRsv7L => Sys2Proof.Machine.execTEmRsv7L s
  | .tEmRsv7G => Sys2Proof.Machine.execTEmRsv7G s
  | .tEmRsv7X => Sys2Proof.Machine.execTEmRsv7X s
  | .tWsUnknownS => Sys2Proof.Machine.execTWsUnknownS s
  | .tWsUnknownL => Sys2Proof.Machine.execTWsUnknownL s
  | .tWsUnknownG => Sys2Proof.Machine.execTWsUnknownG s
  | .tWsUnknownX => Sys2Proof.Machine.execTWsUnknownX s
  | .tWsSyncS => Sys2Proof.Machine.execTWsSyncS s
  | .tWsSyncL => Sys2Proof.Machine.execTWsSyncL s
  | .tWsSyncG => Sys2Proof.Machine.execTWsSyncG s
  | .tWsSyncX => Sys2Proof.Machine.execTWsSyncX s
  | .tWsPhaseAS => Sys2Proof.Machine.execTWsPhaseAS s
  | .tWsPhaseAL => Sys2Proof.Machine.execTWsPhaseAL s
  | .tWsPhaseAG => Sys2Proof.Machine.execTWsPhaseAG s
  | .tWsPhaseAX => Sys2Proof.Machine.execTWsPhaseAX s
  | .tWsPhaseBS => Sys2Proof.Machine.execTWsPhaseBS s
  | .tWsPhaseBL => Sys2Proof.Machine.execTWsPhaseBL s
  | .tWsPhaseBG => Sys2Proof.Machine.execTWsPhaseBG s
  | .tWsPhaseBX => Sys2Proof.Machine.execTWsPhaseBX s
  | .tWsConfirmedS => Sys2Proof.Machine.execTWsConfirmedS s
  | .tWsConfirmedL => Sys2Proof.Machine.execTWsConfirmedL s
  | .tWsConfirmedG => Sys2Proof.Machine.execTWsConfirmedG s
  | .tWsConfirmedX => Sys2Proof.Machine.execTWsConfirmedX s
  | .tWsTrailingS => Sys2Proof.Machine.execTWsTrailingS s
  | .tWsTrailingL => Sys2Proof.Machine.execTWsTrailingL s
  | .tWsTrailingG => Sys2Proof.Machine.execTWsTrailingG s
  | .tWsTrailingX => Sys2Proof.Machine.execTWsTrailingX s
  | .tWsDoneS => Sys2Proof.Machine.execTWsDoneS s
  | .tWsDoneL => Sys2Proof.Machine.execTWsDoneL s
  | .tWsDoneG => Sys2Proof.Machine.execTWsDoneG s
  | .tWsDoneX => Sys2Proof.Machine.execTWsDoneX s
  | .tWsRsv7S => Sys2Proof.Machine.execTWsRsv7S s
  | .tWsRsv7L => Sys2Proof.Machine.execTWsRsv7L s
  | .tWsRsv7G => Sys2Proof.Machine.execTWsRsv7G s
  | .tWsRsv7X => Sys2Proof.Machine.execTWsRsv7X s
  | .tSwUnknownS => Sys2Proof.Machine.execTSwUnknownS s
  | .tSwUnknownL => Sys2Proof.Machine.execTSwUnknownL s
  | .tSwUnknownG => Sys2Proof.Machine.execTSwUnknownG s
  | .tSwUnknownX => Sys2Proof.Machine.execTSwUnknownX s
  | .tSwSyncS => Sys2Proof.Machine.execTSwSyncS s
  | .tSwSyncL => Sys2Proof.Machine.execTSwSyncL s
  | .tSwSyncG => Sys2Proof.Machine.execTSwSyncG s
  | .tSwSyncX => Sys2Proof.Machine.execTSwSyncX s
  | .tSwPhaseAS => Sys2Proof.Machine.execTSwPhaseAS s
  | .tSwPhaseAL => Sys2Proof.Machine.execTSwPhaseAL s
  | .tSwPhaseAG => Sys2Proof.Machine.execTSwPhaseAG s
  | .tSwPhaseAX => Sys2Proof.Machine.execTSwPhaseAX s
  | .tSwPhaseBS => Sys2Proof.Machine.execTSwPhaseBS s
  | .tSwPhaseBL => Sys2Proof.Machine.execTSwPhaseBL s
  | .tSwPhaseBG => Sys2Proof.Machine.execTSwPhaseBG s
  | .tSwPhaseBX => Sys2Proof.Machine.execTSwPhaseBX s
  | .tSwConfirmedS => Sys2Proof.Machine.execTSwConfirmedS s
  | .tSwConfirmedL => Sys2Proof.Machine.execTSwConfirmedL s
  | .tSwConfirmedG => Sys2Proof.Machine.execTSwConfirmedG s
  | .tSwConfirmedX => Sys2Proof.Machine.execTSwConfirmedX s
  | .tSwTrailingS => Sys2Proof.Machine.execTSwTrailingS s
  | .tSwTrailingL => Sys2Proof.Machine.execTSwTrailingL s
  | .tSwTrailingG => Sys2Proof.Machine.execTSwTrailingG s
  | .tSwTrailingX => Sys2Proof.Machine.execTSwTrailingX s
  | .tSwDoneS => Sys2Proof.Machine.execTSwDoneS s
  | .tSwDoneL => Sys2Proof.Machine.execTSwDoneL s
  | .tSwDoneG => Sys2Proof.Machine.execTSwDoneG s
  | .tSwDoneX => Sys2Proof.Machine.execTSwDoneX s
  | .tSwRsv7S => Sys2Proof.Machine.execTSwRsv7S s
  | .tSwRsv7L => Sys2Proof.Machine.execTSwRsv7L s
  | .tSwRsv7G => Sys2Proof.Machine.execTSwRsv7G s
  | .tSwRsv7X => Sys2Proof.Machine.execTSwRsv7X s

end Sys2Proof.Machine
end

