-- ==== Sys2Proof/Machine/Fetch.lean ====
section
/-!
DEFINITION. How the machine comes by its next instruction. The block has no program store (spec/00_scope.md R1,
spec/20_memory.md R73): the command port presents a word, or a pulse arrives at a lane, where the lane's `state` and
the pulse's class select the transition (spec/10_state.md R24, R26).
-/

namespace Sys2Proof.Machine

/-- What the ports present: an instruction, or a word the host port refuses (R87). -/
inductive Fetched where
  | run (i : Instr)
  | illegal
deriving DecidableEq, Repr

/-- The wires of the command port carry `8 + WIDTH_BITS` bits (R81). -/
def portWord (widthBits w : Nat) : Nat := w % 2 ^ (widthBits + 8)

/-- A decoded code, or the port's refusal. -/
def Fetched.ofDecode : Except DecodeError Instr → Fetched
  | .ok i => .run i
  | .error _ => .illegal

/-- The instruction an item stands for (R81 to R83, R87; log 4, log 8, log 9). -/
def fetchItem (s : State) : Item → Fetched
  | .host w => .ofDecode (decodeHost s.cfg.widthBits (portWord s.cfg.widthBits w))
  | .micro w => .ofDecode (decode s.cfg.widthBits (.command (portWord s.cfg.widthBits w)))
  | .pulse p c => .ofDecode (decode s.cfg.widthBits (.key (keyCode p (s.lane p).state c)))

/-- The next instruction. An idle port reads as the all-zero word, NOP (R120; log 4). -/
def fetch (s : State) : Fetched :=
  match s.inbox with
  | [] => .run .nop
  | r :: _ => fetchItem s r.item

/-- The request is taken off the queue, and the `now` port shows the value that came with it (R51). -/
def State.advance (s : State) : State :=
  match s.inbox with
  | [] => s
  | r :: rest => { s with inbox := rest, now := r.now % 2 ^ s.cfg.timeBits }

/-- What the machine does with what it fetched. -/
def runFetched (f : Fetched) (s : State) : Host.Outcome State Fault Refusal :=
  match f with
  | .run i => exec i s
  | .illegal => .next s.answerIllegal

/-- One operation of the block (R70), whose configuration meets R11 (U9; log 10). -/
def stepOnce (s : State) : Host.Outcome State Fault Refusal :=
  if configOk s.cfg then runFetched (fetch s) s.advance else .refused .badConfiguration

/-- A word of the opcode table, written for 24 bits, in the layout of a block with another `WIDTH_BITS` (R81). DESIGN
CHOICE: where `WIDTH_BITS` is below 16, `arg` is cut modulo `2^WIDTH_BITS`, a FEED's width too, which is not saturated as
R314 asks of a host (log 23). -/
def tableWord (widthBits w : Nat) : Nat := w / 2 ^ 16 % 256 * 2 ^ widthBits + w % 2 ^ 16 % 2 ^ widthBits

/-- The state with a request put before all others, at the present time. -/
def State.present (s : State) (item : Item) : State := { s with inbox := ⟨s.now, item⟩ :: s.inbox }

/-- The state whose next step runs the opcode-table word: a transition key needs the lane in the key's state and a
pulse of its class (log 8); a micro-operation goes to the bus, every other word to the host port. -/
def presentTableWord (s : State) (nbits w : Nat) : State :=
  if nbits ≤ 8 then
    let p := LaneId.ofCode (w / 32)
    (s.setLane p { s.lane p with state := .ofCode (w / 4) }).present (.pulse p (.ofCode w))
  else if w / 2 ^ 20 % 16 < 8 then s.present (.host (tableWord s.cfg.widthBits w))
  else s.present (.micro (tableWord s.cfg.widthBits w))

end Sys2Proof.Machine
end

