-- ==== Sys2Proof/Machine/Step.lean ====
section
/-!
DEFINITION. One step of the machine, and how an opcode-table word is put where the next step fetches.
-/

namespace Sys2Proof.Machine

/-- One host operation, micro-operation or lane pulse: atomic, complete when it returns (R70, R320). -/
def step (s : State) : Host.Outcome State Fault Refusal := stepOnce s

/-- `s` with the opcode-table word `w` of `nbits` bits where `step` fetches next (log 14). -/
def State.withFetchWord (s : State) (nbits w : Nat) : State := presentTableWord s nbits w

end Sys2Proof.Machine
end

