-- ==== Sys2Proof/Machine/Assembler.lean ====
section
/-!
DEFINITION. The assembler of the operation set (spec/30_encoding.md R90 to R92): its lines as data, and the requests
they stand for. The text of a line, its comments and the repetition `7*(LS)` are spelling and have no counterpart here.
-/

namespace Sys2Proof.Machine

/-- A line of a program (R90 to R92). -/
inductive AsmLine where
  /-- a host operation, R90 -/
  | op (i : Instr)
  /-- the directive `TIME n`, R91 -/
  | time (n : Nat)
  /-- `PULSES lane string`, R92 -/
  | pulses (lane : LaneId) (classes : List PulseClass)
  /-- `BITS lane string`, R92 -/
  | bits (lane : LaneId) (values : List Bool)
deriving DecidableEq, Repr

/-- The representative width of a class on a lane, under the default thresholds (R92). -/
def representativeWidth : LaneId → PulseClass → Nat
  | _, .short => 400
  | .sw, .long => 600
  | _, .long => 800
  | .sec, .gap => 3000
  | _, .gap => 2000
  | _, .outOfRange => 100

/-- The pulses that encode a bit on a lane (R92). -/
def bitPulses : LaneId → Bool → List PulseClass
  | .sec, v => if v then [.long, .short] else [.short, .long]
  | .em, v => if v then [.long] else [.short]
  | .ws, v => if v then [.short, .long] else [.long, .short]
  | .sw, v => if v then [.long, .long] else [.short, .short]

/-- The request that presents a host operation's word at time `now` (R81, R90). -/
def hostRequest (widthBits now : Nat) (i : Instr) : List Request :=
  match encode widthBits i with
  | .command w => [⟨now, .host w⟩]
  | .key _ => []

/-- One FEED per class, of the representative width (R92). -/
def pulseRequests (widthBits now : Nat) (p : LaneId) (classes : List PulseClass) : List Request :=
  classes.flatMap fun c => hostRequest widthBits now (.feed (representativeWidth p c))

/-- The requests of a program; `now` is the value of the last `TIME` (R91). -/
def assembleFrom (widthBits : Nat) : Nat → List AsmLine → List Request
  | _, [] => []
  | now, .op i :: rest => hostRequest widthBits now i ++ assembleFrom widthBits now rest
  | _, .time n :: rest => assembleFrom widthBits n rest
  | now, .pulses p classes :: rest => pulseRequests widthBits now p classes ++ assembleFrom widthBits now rest
  | now, .bits p values :: rest =>
    pulseRequests widthBits now p (values.flatMap (bitPulses p)) ++ assembleFrom widthBits now rest

/-- The requests of a program; without a `TIME` it runs with `now = 0` (R91). -/
def assemble (widthBits : Nat) (program : List AsmLine) : List Request := assembleFrom widthBits 0 program

end Sys2Proof.Machine
end

