-- ==== Sys2Proof/Machine/Outputs.lean ====
section
/-!
DEFINITION. The data outputs of a lane (spec/10_state.md R52). While `avail` is 0 their values are unspecified (U2):
free values, of which nothing is known but that they are functions of the lane's state (log 12).
-/

namespace Sys2Proof

/-- `pkt_len` of a lane that holds no packet: any value (U2). -/
opaque Config.idlePktLen : LaneId → Machine.Lane → BitVec 5

/-- `pkt_data[i]` of a lane that holds no packet: any value (U2). -/
opaque Config.idlePktData : LaneId → Machine.Lane → Nat → Byte

end Sys2Proof

namespace Sys2Proof.Machine

/-- The output `pkt_len` of lane `p` (R52). -/
def State.pktLen (s : State) (p : LaneId) : BitVec 5 :=
  if s.avail p then (s.lane p).pos else Config.idlePktLen p (s.lane p)

/-- The output `pkt_data[i]` of lane `p` (R52). -/
def State.pktData (s : State) (p : LaneId) (i : Nat) : Byte :=
  if s.avail p then (s.lane p).data.read i else Config.idlePktData p (s.lane p) i

end Sys2Proof.Machine
end

