-- ==== Sys2Proof/Safety.lean ====
section
/-!
DEFINITION. The terms claims about OOKD are stated in: the invariants of a lane (spec/10_state.md R41 and what follows
from R20, R31), what an operation leaves alone, and the effect of the shared operations in the spec's own words.
-/

namespace Sys2Proof.Machine

/-- The states lane `p` uses (R25). -/
def inSubset : LaneId → DecState → Bool
  | .sec, .unknown | .sec, .phaseA | .sec, .phaseB | .sec, .confirmed | .sec, .done => true
  | .em, .unknown | .em, .sync | .em, .confirmed | .em, .done => true
  | .ws, .unknown | .ws, .sync | .ws, .phaseA | .ws, .phaseB | .ws, .confirmed | .ws, .done => true
  | .sw, .unknown | .sw, .phaseA | .sw, .phaseB | .sw, .confirmed | .sw, .done => true
  | _, _ => false

/-- R41 (I-a), (I-b), (I-c): the cursors of a lane with `w` bits per byte. -/
abbrev cursorsOk (w : Nat) (l : Lane) : Prop :=
  l.pos.toNat ≤ 25 ∧ l.bits.toNat < w ∧ (l.pos.toNat = 25 → l.bits = 0)

/-- The buffer of a lane with `w` bits per byte: the cursors in range, the contents in canonical form. -/
abbrev bufferOk (w : Nat) (l : Lane) : Prop := cursorsOk w l ∧ l.data.wf = true

/-- R41 (I-d) to (I-g). -/
abbrev sequencingOk (p : LaneId) (l : Lane) : Prop :=
  inSubset p l.state = true ∧ (l.state = .done → l.bits = 0 ∧ 1 ≤ l.pos.toNat) ∧ l.run.toNat ≤ 21 ∧ l.ext = false

/-- The registers that lane `p` does not use are at their reset value (register table of R20; `flip` by R139). -/
abbrev unusedOk (p : LaneId) (l : Lane) : Prop :=
  l.flip = false ∧ (p = .sec → l.run = 0) ∧ (p ≠ .ws → l.prev = false ∧ l.mtype = 0 ∧ l.mvalid = false)
    ∧ (p ≠ .ws → p ≠ .sw → l.nbits = 0) ∧ (p ≠ .sw → l.par = false)

/-- The raw bits and the stored bits agree while a message is in progress: every fifth raw bit of lane WS and every
ninth of lane SW is not stored (R31, R216, R245); lane SW stops at raw bit 45 (R246). -/
abbrev countOk (w : Nat) (p : LaneId) (l : Lane) : Prop :=
  (p = .ws → l.state ≠ .done → collected w l = l.nbits.toNat - l.nbits.toNat / 5)
    ∧ (p = .sw → l.state ≠ .done →
        collected w l = l.nbits.toNat - l.nbits.toNat / 9 ∧ l.nbits.toNat < 45)

/-- The invariant of lane `p`. -/
abbrev laneInv (cfg : Config) (p : LaneId) (l : Lane) : Prop :=
  bufferOk (cfg.lane p).w l ∧ sequencingOk p l ∧ unusedOk p l ∧ countOk (cfg.lane p).w p l
    ∧ l.dedup.lastTime < 2 ^ cfg.timeBits

/-- The invariant of the block: its configuration meets R11, and every lane has its invariant. -/
abbrev blockInv (s : State) : Prop :=
  configOk s.cfg ∧ laneInv s.cfg .sec s.sec ∧ laneInv s.cfg .em s.em ∧ laneInv s.cfg .ws s.ws ∧ laneInv s.cfg .sw s.sw

/-- The part of the invariant that micro-operations by themselves keep too: configuration and buffers. -/
abbrev buffersInv (s : State) : Prop :=
  configOk s.cfg ∧ bufferOk s.cfg.sec.w s.sec ∧ bufferOk s.cfg.em.w s.em ∧ bufferOk s.cfg.ws.w s.ws
    ∧ bufferOk s.cfg.sw.w s.sw

/-- The next request is not a micro-operation issued by itself, which no host operation does (R82, R87). -/
def nextIsNoMicro (s : State) : Bool :=
  match s.inbox with
  | ⟨_, .micro _⟩ :: _ => false
  | _ => true

/-- Nothing but lane `p` and the reply differs. -/
def OnlyLane (p : LaneId) (s t : State) : Prop :=
  (∀ q, q ≠ p → t.lane q = s.lane q) ∧ t.cfg = s.cfg ∧ t.now = s.now ∧ t.inbox = s.inbox

/-- No lane differs, and neither does the configuration or an input. -/
def NoLane (s t : State) : Prop :=
  (∀ q, t.lane q = s.lane q) ∧ t.cfg = s.cfg ∧ t.now = s.now ∧ t.inbox = s.inbox

/-- Every slot reads as before. -/
def SameBytes (l l' : Lane) : Prop := ∀ i, l'.data.read i = l.data.read i

/-- The lane reset (R302, R55): every slot and every working register at its reset value, the DedupRecord kept. -/
def LaneIsReset (l l' : Lane) : Prop :=
  (∀ i, l'.data.read i = 0x00) ∧ l'.pos = 0 ∧ l'.bits = 0 ∧ l'.flip = false ∧ l'.state = .unknown ∧ l'.run = 0
    ∧ l'.prev = false ∧ l'.nbits = 0 ∧ l'.par = false ∧ l'.ext = false ∧ l'.mtype = 0 ∧ l'.mvalid = false
    ∧ l'.dedup = l.dedup

/-- Registers other than the buffer and its cursors are unchanged. -/
def OnlyBuffer (l l' : Lane) : Prop := { l' with data := l.data, pos := l.pos, bits := l.bits } = l

/-- The bit appended fills the slot (R131). -/
def fillsSlot (w : Nat) (l : Lane) : Bool := l.bits.toNat + 1 == w

/-- What an APPEND of `v` that succeeds does to the buffer and the cursors (R131), byte by byte. -/
def AppendedBit (w : Nat) (v : Bool) (l l' : Lane) : Prop :=
  l'.data.read l.pos.toNat = (l.data.read l.pos.toNat >>> 1) ||| (if v then 0x80 else 0x00)
  ∧ (fillsSlot w l = true → l'.bits = 0 ∧ l'.pos.toNat = l.pos.toNat + 1
      ∧ (l.pos.toNat + 1 < 25 → l'.data.read (l.pos.toNat + 1) = 0x00))
  ∧ (fillsSlot w l = false → l'.bits.toNat = l.bits.toNat + 1 ∧ l'.pos = l.pos)
  ∧ ∀ j, j ≠ l.pos.toNat → ¬(fillsSlot w l = true ∧ j = l.pos.toNat + 1 ∧ j < 25)
      → l'.data.read j = l.data.read j

/-- The number of bytes PAD leaves (R133). -/
def paddedLen (l : Lane) : Nat := l.pos.toNat + (if l.bits = 0 then 0 else 1)

/-- The byte PAD leaves in slot `j` (R133): the partial slot is shifted right by `w - bits`, the slot the cursor rolls
onto is cleared. -/
def paddedByte (w : Nat) (l : Lane) (j : Nat) : Byte :=
  if l.bits = 0 then l.data.read j
  else if j = l.pos.toNat then l.data.read j >>> (w - l.bits.toNat)
  else if j = l.pos.toNat + 1 ∧ j < 25 then 0x00
  else l.data.read j

/-- A byte after the post-processing `POST[p]` (R115, R135, R136). -/
def postByte : Post → Byte → Byte
  | .none, b => b
  | .revb, b => bitrev8 b
  | .revn, b => swapNibbles b

/-- The packet the driver hands to ADMIT when the step leaves lane `l` with outcome `Complete` (R115): the padded,
post-processed bytes. -/
def completedPacket (c : LaneConfig) (l : Lane) : List Byte :=
  (List.range (paddedLen l)).map fun j => postByte c.post (paddedByte c.w l j)

/-- What the driver makes of lane `l` with outcome `Complete` (R115): by ADMIT's decision over the packet, the lane
holds it, everything else as the step left it, or it is reset; the DedupRecord is ADMIT's in both cases. -/
def HandedOver (cfg : Config) (p : LaneId) (now : Nat) (l l' : Lane) : Prop :=
  let packet := completedPacket (cfg.lane p) l
  let r := admitRecord cfg.timeBits (cfg.lane p) (crcOf cfg.crc packet) now l.dedup
  (r.1 = true → l'.state = .done ∧ l'.packet = packet ∧ l'.pos.toNat = paddedLen l ∧ l'.bits = 0 ∧ l'.dedup = r.2
      ∧ (∀ j, paddedLen l ≤ j → l'.data.read j = paddedByte (cfg.lane p).w l j)
      ∧ { l' with data := l.data, pos := l.pos, bits := l.bits, state := l.state, dedup := l.dedup } = l)
  ∧ (r.1 = false → LaneIsReset { l with dedup := r.2 } l')

/-- `i` gives lane `p` a pulse whose step completes (R111), after which the driver issues ADMIT (R115): a FEED, or a
transition key of the lane. -/
def PulseCompletes (i : Instr) (p : LaneId) (s : State) : Prop :=
  (∃ width l1, i = .feed width ∧ (s.lane p).state ≠ .done
      ∧ laneStep s.cfg p (classify s.cfg p width) (s.lane p) = .complete l1)
  ∨ ∃ st c l1, i = keyInstr p st c ∧ st ≠ .done ∧ laneStep s.cfg p c { s.lane p with state := st } = .complete l1

/-- APPEND of each bit of a list, in order. -/
def appendAll (w : Nat) : List Bool → Lane → Res Lane
  | [], l => .ok l
  | v :: vs, l => (append w v l).bind (appendAll w vs)

/-- MANCH of each raw bit of a list, in order. -/
def manchAll (w : Nat) : List Bool → Lane → Res Lane
  | [], l => .ok l
  | raw :: raws, l => (manch w raw l).bind (manchAll w raws)

/-- The running exclusive or of a stream that starts from `flip` (R132). -/
def runningXor : Bool → List Bool → List Bool
  | _, [] => []
  | flip, raw :: raws => (flip ^^ raw) :: runningXor (flip ^^ raw) raws

/-- ADMIT of copies of one packet at the given times, in order: the decisions (R151). -/
def admitAll (timeBits : Nat) (c : LaneConfig) (crc : Crc) : List Nat → DedupRecord → List Bool
  | [], _ => []
  | now :: times, d =>
    let r := admitRecord timeBits c crc now d
    r.1 :: admitAll timeBits c crc times r.2

/-- Each copy arrives within the window of the one before it (R154). -/
def withinWindow (timeBits : Nat) (c : LaneConfig) : Nat → List Nat → Bool
  | _, [] => true
  | last, now :: times => Nat.ble (elapsed timeBits now last) c.minGap.toNat && withinWindow timeBits c now times

end Sys2Proof.Machine
end

