-- ==== Sys2Proof/Certificates/Slice0/Obligations.lean ====
section
/-!
DEFINITION. What is claimed of the model, rule by rule of spec/. The transition keys are named by `keyInstr` (R83): the
constructor `t<Lane><State><Class>` of the row. A key is claimed about in the lane state it names, which is the only
one in which a step fetches it.
-/

open Sys2Proof Sys2Proof.Machine

/-! ### Encoding (30_encoding.md) -/

/-- R81 to R84: the decoder reads back every instruction the encoder can write, with every operand. -/
def Obligations.DecodeEncodeAgree : Prop :=
  ∀ (widthBits : Nat) (i : Instr), wellFormed widthBits i = true → decode widthBits (encode widthBits i) = .ok i

/-- R83: the key is `{lane, state, class}`, lane in bits 6:5, state in bits 4:2, class in bits 1:0; every one of the 128
keys has a row, and no two keys have the same. -/
def Obligations.KeysHaveOneMeaning : Prop :=
  (∀ (widthBits : Nat) (p : LaneId) (st : DecState) (c : PulseClass),
    decode widthBits (.key (p.code <<< 5 ||| st.code <<< 2 ||| c.code)) = .ok (keyInstr p st c))
  ∧ (∀ (widthBits k : Nat) (i : Instr), decode widthBits (.key k) = .ok i ↔ encode widthBits i = .key k)
  ∧ ∀ widthBits k : Nat, k < 128 → ∃ i, decode widthBits (.key k) = .ok i

/-- R81, R82, R84, R86, R88, on words with any `op`, `lane`, `rsv` and `arg`: `rsv` is ignored; each of the sixteen
operations is told by `op` alone and takes its operands from the fields, and the bits of `arg`, that hold them, whatever
the others hold; the host command port accepts no `op` of 8 or above. -/
def Obligations.CommandFieldsDecide : Prop :=
  ∀ widthBits op lane rsv arg : Nat, op < 16 → lane < 4 → rsv < 4 → arg < 2 ^ widthBits →
    let word (op lane rsv arg : Nat) := (op * 16 + lane * 4 + rsv) * 2 ^ widthBits + arg
    let read (op : Nat) := decode widthBits (.command (word op lane rsv arg))
    let p := LaneId.ofCode lane
    read op = decode widthBits (.command (word op lane 0 arg))
    ∧ read 0x0 = .ok .nop ∧ read 0x1 = .ok (.feed arg) ∧ read 0x2 = .ok (.take p) ∧ read 0x3 = .ok (.reset p)
    ∧ read 0x4 = .ok .reserved4 ∧ read 0x5 = .ok .reserved5 ∧ read 0x6 = .ok .reserved6 ∧ read 0x7 = .ok .reserved7
    ∧ read 0x8 = .ok (.append p (arg % 2 == 1)) ∧ read 0x9 = .ok (.manch p (arg % 2 == 1)) ∧ read 0xA = .ok (.pad p)
    ∧ read 0xB = .ok (.align p (BitVec.ofNat 5 arg)) ∧ read 0xC = .ok (.revb p) ∧ read 0xD = .ok (.revn p)
    ∧ read 0xE = .ok (.invert p) ∧ read 0xF = .ok (.admitPacket p)
    ∧ decodeHost widthBits (word op lane rsv arg) = if op < 8 then read op else .error .microOnHostPort

/-- R90, and the words of 95_test_vectors.md V10.5: words the spec writes out. -/
def Obligations.SampleWordsDecode : Prop :=
  decode 16 (.command 0x100190) = .ok (.feed 400) ∧ decode 16 (.command 0x100320) = .ok (.feed 800)
  ∧ decode 16 (.command 0x100BB8) = .ok (.feed 3000) ∧ decode 16 (.command 0x2C0000) = .ok (.take .sw)
  ∧ decode 16 (.command 0x380000) = .ok (.reset .ws) ∧ decode 16 (.command 0x200000) = .ok (.take .sec)
  ∧ decode 16 (.command 0x000000) = .ok .nop ∧ decode 16 (.command 0x130190) = .ok (.feed 400)
  ∧ decode 16 (.command 0x800001) = .ok (.append .sec true) ∧ decode 16 (.command 0xB00005) = .ok (.align .sec 5)
  ∧ decode 16 (.command 0xF40000) = .ok (.admitPacket .em) ∧ decode 16 (.key 0x6D) = .ok .tSwPhaseBL

/-- R92: under the default thresholds the representative width of a class on a lane is of that class there, and the
other lanes read it as R92 lists. -/
def Obligations.RepresentativeWidthsAreOfTheirClass : Prop :=
  (∀ (p : LaneId) (c : PulseClass), classify Config.default p (representativeWidth p c) = c)
  ∧ [400, 800, 600, 2000, 3000, 100].map (fun w => [LaneId.sec, .em, .ws, .sw].map fun p => classify Config.default p w)
    = [[.short, .short, .short, .short], [.long, .long, .long, .outOfRange], [.long, .long, .long, .long],
       [.outOfRange, .gap, .gap, .gap], [.gap, .gap, .gap, .gap], [.outOfRange, .outOfRange, .outOfRange, .outOfRange]]

/-- R87: a word with `op` 0x4 to 0xF on the host port changes no lane and answers ILLEGAL. That the answer is a next
state is the model's choice (log 6). -/
def Obligations.HostPortRefusesOtherOps : Prop :=
  ∀ (s : State) (n w : Nat) (rest : List Request), configOk s.cfg → s.inbox = ⟨n, .host w⟩ :: rest →
    4 * 2 ^ (s.cfg.widthBits + 4) ≤ w → w < 2 ^ (s.cfg.widthBits + 8) →
    ∃ t, step s = .next t ∧ t.reply = .illegal ∧ (∀ p, t.lane p = s.lane p) ∧ t.cfg = s.cfg ∧ t.inbox = rest

/-! ### One step -/

/-- R24, R26, R51, R70, R81, R120: one step is `exec` of the instruction the ports present, after the request is taken
off the queue and the `now` port shows its value. A word comes from the host port or from the micro-operation bus; a
pulse at a lane selects the key of the lane's present state; an idle port is NOP. A configuration that breaks R11 is
refused. The model's choices, not the spec's: the queue (log 4), a pulse at one lane alone as a request (log 8), a bus of
its own for micro-operation words (log 9); the refusal is log 10. -/
def Obligations.StepRunsDecodedInstruction : Prop :=
  (∀ (s : State) (n w : Nat) (rest : List Request) (i : Instr), configOk s.cfg → s.inbox = ⟨n, .host w⟩ :: rest →
    w < 2 ^ (s.cfg.widthBits + 8) → decodeHost s.cfg.widthBits w = .ok i → wellFormed s.cfg.widthBits i = true →
    step s = exec i { s with inbox := rest, now := n % 2 ^ s.cfg.timeBits })
  ∧ (∀ (s : State) (n w : Nat) (rest : List Request) (i : Instr), configOk s.cfg → s.inbox = ⟨n, .micro w⟩ :: rest →
    w < 2 ^ (s.cfg.widthBits + 8) → decode s.cfg.widthBits (.command w) = .ok i →
    wellFormed s.cfg.widthBits i = true → step s = exec i { s with inbox := rest, now := n % 2 ^ s.cfg.timeBits })
  ∧ (∀ (s : State) (n : Nat) (p : LaneId) (c : PulseClass) (rest : List Request), configOk s.cfg →
    s.inbox = ⟨n, .pulse p c⟩ :: rest →
    step s = exec (keyInstr p (s.lane p).state c) { s with inbox := rest, now := n % 2 ^ s.cfg.timeBits })
  ∧ (∀ s : State, configOk s.cfg → s.inbox = [] → step s = exec .nop s)
  ∧ ∀ s : State, ¬ configOk s.cfg → step s = .refused .badConfiguration

/-! ### Host operations (40_driver.md) -/

/-- R120: NOP changes nothing and answers OK; it is the all-zero word. -/
def Obligations.NopChangesNothing : Prop :=
  (∀ s : State, ∃ t, exec .nop s = .next t ∧ NoLane s t ∧ t.reply = .ok)
  ∧ ∀ widthBits : Nat, decode widthBits (.command 0) = .ok .nop

/-- R87: RESERVED_4 to RESERVED_7 change no lane and answer ILLEGAL (as a next state: log 6). -/
def Obligations.ReservedAnswerIllegal : Prop :=
  ∀ (i : Instr) (s : State), i = .reserved4 ∨ i = .reserved5 ∨ i = .reserved6 ∨ i = .reserved7 →
    ∃ t, exec i s = .next t ∧ NoLane s t ∧ t.reply = .illegal

/-- R117, R302: RESET succeeds in every state; lane `p` gets its reset values, the DedupRecord is kept. -/
def Obligations.ResetDiscardsLane : Prop :=
  ∀ (p : LaneId) (s : State), ∃ t, exec (.reset p) s = .next t ∧ OnlyLane p s t ∧ t.reply = .ok
    ∧ LaneIsReset (s.lane p) (t.lane p)

/-- R116: TAKE on a lane that holds a packet returns its bytes in slot order and then resets the lane. -/
def Obligations.TakeReturnsPacketAndResets : Prop :=
  ∀ (p : LaneId) (s : State), (s.lane p).state = .done → (s.lane p).pos.toNat ≤ 25 →
    ∃ t, exec (.take p) s = .next t ∧ OnlyLane p s t ∧ LaneIsReset (s.lane p) (t.lane p)
      ∧ t.reply = .packet (s.lane p).pos ((List.range (s.lane p).pos.toNat).map fun j => (s.lane p).data.read j)

/-- R116, U1: TAKE on a lane that holds none answers NOPACKET and changes nothing. -/
def Obligations.TakeWithoutPacketChangesNothing : Prop :=
  ∀ (p : LaneId) (s : State), (s.lane p).state ≠ .done →
    ∃ t, exec (.take p) s = .next t ∧ NoLane s t ∧ t.reply = .noPacket

/-- R110, R89: FEED completes; every lane gets the same width and the same `now` and performs its own lane-level FEED;
bit `p` of the answer is lane `p`'s `avail`. -/
def Obligations.FeedStepsEveryLane : Prop :=
  ∀ (width : Nat) (s : State), buffersInv s →
    ∃ t avail, exec (.feed width) s = .next t
      ∧ (∀ p, laneFeed s.cfg p s.now (classify s.cfg p width) (s.lane p) = .ok (t.lane p))
      ∧ t.cfg = s.cfg ∧ t.now = s.now ∧ t.inbox = s.inbox ∧ t.reply = .fed avail
      ∧ ∀ p : LaneId, avail.getLsbD p.code = decide ((t.lane p).state = .done)

/-- R20, R71, R283: what FEED does to a lane depends on no other lane. -/
def Obligations.FeedLanesAreIndependent : Prop :=
  ∀ (width : Nat) (p : LaneId) (s s' t t' : State), s.cfg = s'.cfg → s.now = s'.now → s.lane p = s'.lane p →
    exec (.feed width) s = .next t → exec (.feed width) s' = .next t' → t.lane p = t'.lane p

/-- R112, with the corner cases it lists for lane SEC: the four classes, their bounds, and that they partition the
widths. -/
def Obligations.ClassifierBounds : Prop :=
  (∀ (cfg : Config) (p : LaneId) (w : Nat), configOk cfg →
    let gap := if p = .sec then 2500 else 1500
    (classify cfg p w = .short ↔ (cfg.lane p).tmin ≤ w ∧ w < (cfg.lane p).tsplit)
    ∧ (classify cfg p w = .long ↔ (cfg.lane p).tsplit ≤ w ∧ w < (cfg.lane p).tmax)
    ∧ (classify cfg p w = .gap ↔ gap ≤ w)
    ∧ (classify cfg p w = .outOfRange ↔ w < (cfg.lane p).tmin ∨ ((cfg.lane p).tmax ≤ w ∧ w < gap)))
  ∧ [199, 200, 599, 600, 999, 1000, 2499, 2500, 65535, 0].map (classify Config.default .sec)
    = [.outOfRange, .short, .short, .long, .long, .outOfRange, .outOfRange, .gap, .gap, .outOfRange]

/-! ### Every lane -/

/-- R113: a lane that holds a packet ignores a pulse of every class (the 16 rows `T.*.Done.*`) and of every width. -/
def Obligations.HeldPacketIgnoresPulses : Prop :=
  ∀ (p : LaneId) (s : State), (s.lane p).state = .done →
    (∀ c, ∃ t, exec (keyInstr p .done c) s = .next t ∧ NoLane s t ∧ t.reply = .laneFed true)
    ∧ ∀ width t, exec (.feed width) s = .next t → t.lane p = s.lane p

/-- R118: a pulse of class `X` in every state but Done (the 28 rows `T.*.*.X`) is `Fail(F_RANGE)`: the lane reset
(R114). -/
def Obligations.OutOfRangePulseResets : Prop :=
  ∀ (p : LaneId) (st : DecState) (s : State), st ≠ .done → (s.lane p).state = st →
    laneStep s.cfg p .outOfRange (s.lane p) = .fail .range
    ∧ ∃ t, exec (keyInstr p st .outOfRange) s = .next t ∧ OnlyLane p s t ∧ t.reply = .laneFed false
      ∧ LaneIsReset (s.lane p) (t.lane p)

/-- R177, R195, R218, R247: `S` or `L` in a state outside the lane's subset (24 rows: SEC and SW in Sync, Trailing and
7; EM in PhaseA, PhaseB, Trailing and 7; WS in Trailing and 7) is `Fail(F_STATE)`. -/
def Obligations.StateOutsideSubsetResets : Prop :=
  ∀ (p : LaneId) (st : DecState) (c : PulseClass) (s : State), inSubset p st = false → c = .short ∨ c = .long →
    (s.lane p).state = st →
    laneStep s.cfg p c (s.lane p) = .fail .state
    ∧ ∃ t, exec (keyInstr p st c) s = .next t ∧ OnlyLane p s t ∧ t.reply = .laneFed false
      ∧ LaneIsReset (s.lane p) (t.lane p)

/-- R214, R243, and R174 in part: the first half of a pair moves to PhaseA or PhaseB and stores nothing else (8 rows:
SEC in Unknown and Confirmed, WS and SW in Confirmed, classes `S` and `L`). -/
def Obligations.FirstHalfIsRemembered : Prop :=
  ∀ (p : LaneId) (st : DecState) (s : State),
    (p, st) = (.sec, .unknown) ∨ (p, st) = (.sec, .confirmed) ∨ (p, st) = (.ws, .confirmed)
      ∨ (p, st) = (.sw, .confirmed) → (s.lane p).state = st →
    (∃ t, exec (keyInstr p st .short) s = .next t ∧ OnlyLane p s t ∧ t.reply = .laneFed false
      ∧ t.lane p = { s.lane p with state := .phaseA } ∧ SameBytes (s.lane p) (t.lane p))
    ∧ ∃ t, exec (keyInstr p st .long) s = .next t ∧ OnlyLane p s t ∧ t.reply = .laneFed false
      ∧ t.lane p = { s.lane p with state := .phaseB } ∧ SameBytes (s.lane p) (t.lane p)

/-- R215, R244: a second half that forms no pair is `Fail(F_PAIR)` (rows WS PhaseA `S`, PhaseB `L`; SW PhaseA `L`,
PhaseB `S`). -/
def Obligations.BadPairResets : Prop :=
  ∀ (p : LaneId) (st : DecState) (c : PulseClass) (s : State),
    (p, st, c) = (.ws, .phaseA, .short) ∨ (p, st, c) = (.ws, .phaseB, .long) ∨ (p, st, c) = (.sw, .phaseA, .long)
      ∨ (p, st, c) = (.sw, .phaseB, .short) → (s.lane p).state = st →
    laneStep s.cfg p c (s.lane p) = .fail .pair
    ∧ ∃ t, exec (keyInstr p st c) s = .next t ∧ OnlyLane p s t ∧ t.reply = .laneFed false
      ∧ LaneIsReset (s.lane p) (t.lane p)

/-- R131, R61, R114: a bit that comes when the buffer is full overflows and resets the lane: SEC PhaseA and PhaseB, EM
Confirmed, WS PhaseA `L` and PhaseB `S` where the bit is no marker. (Where these rows trap.) -/
def Obligations.FullBufferOverflows : Prop :=
  ∀ (p : LaneId) (st : DecState) (c : PulseClass) (s : State), c = .short ∨ c = .long →
    (p = .sec ∧ (st = .phaseA ∨ st = .phaseB)) ∨ (p = .em ∧ st = .confirmed)
      ∨ (p = .ws ∧ ((st = .phaseA ∧ c = .long) ∨ (st = .phaseB ∧ c = .short))
        ∧ (s.lane p).nbits.toNat < 255 ∧ ((s.lane p).nbits.toNat + 1) % 5 ≠ 0) →
    (s.lane p).state = st → (s.lane p).pos.toNat = 25 →
    laneStep s.cfg p c (s.lane p) = .fail .overflow
    ∧ ∃ t, exec (keyInstr p st c) s = .next t ∧ OnlyLane p s t ∧ t.reply = .laneFed false
      ∧ LaneIsReset (s.lane p) (t.lane p)

/-- R191, R211, R241, R119: a terminating gap on lanes EM, WS and SW, in every state but Done (21 rows), completes when
`pos` has reached 9, 6 or 5 and fails otherwise; a packet that completes is padded and handed to ADMIT (R115). -/
def Obligations.GapCompletesByLength : Prop :=
  ∀ (p : LaneId) (least : Nat) (st : DecState) (s : State),
    (p, least) = (.em, 9) ∨ (p, least) = (.ws, 6) ∨ (p, least) = (.sw, 5) → st ≠ .done → (s.lane p).state = st →
    configOk s.cfg → bufferOk (s.cfg.lane p).w (s.lane p) →
    ∃ t, exec (keyInstr p st .gap) s = .next t ∧ OnlyLane p s t
      ∧ t.reply = .laneFed (decide ((t.lane p).state = .done))
      ∧ (least ≤ (s.lane p).pos.toNat → HandedOver s.cfg p s.now (s.lane p) (t.lane p))
      ∧ ((s.lane p).pos.toNat < least →
          laneStep s.cfg p .gap (s.lane p) = .fail .gap ∧ LaneIsReset (s.lane p) (t.lane p))

/-! ### Lane SEC (43_fsm_sec.md) -/

/-- R175, R176: two unequal halves store a bit, 0 for (S, L) and 1 for (L, S) (rows PhaseA `L`, PhaseB `S`). -/
def Obligations.SecUnequalPairStoresBit : Prop :=
  ∀ (st : DecState) (c : PulseClass) (v : Bool) (s : State),
    (st, c, v) = (.phaseA, .long, false) ∨ (st, c, v) = (.phaseB, .short, true) → s.sec.state = st →
    configOk s.cfg → bufferOk s.cfg.sec.w s.sec → s.sec.pos.toNat < 25 →
    ∃ t, exec (keyInstr .sec st c) s = .next t ∧ OnlyLane .sec s t ∧ t.reply = .laneFed false
      ∧ AppendedBit s.cfg.sec.w v s.sec t.sec ∧ t.sec.state = .confirmed
      ∧ { t.sec with data := s.sec.data, pos := s.sec.pos, bits := s.sec.bits, state := s.sec.state } = s.sec

/-- R175, R176, R137: two equal halves are a sync loss: the bit (1 for a short second half) is appended, then slots 0 to
`min(pos, 24)` are complemented (rows PhaseA `S`, PhaseB `L`). `l1` is the lane between the two. -/
def Obligations.SecEqualPairInverts : Prop :=
  ∀ (st : DecState) (c : PulseClass) (v : Bool) (s : State),
    (st, c, v) = (.phaseA, .short, true) ∨ (st, c, v) = (.phaseB, .long, false) → s.sec.state = st →
    configOk s.cfg → bufferOk s.cfg.sec.w s.sec → s.sec.pos.toNat < 25 →
    ∃ t l1, exec (keyInstr .sec st c) s = .next t ∧ OnlyLane .sec s t ∧ t.reply = .laneFed false
      ∧ AppendedBit s.cfg.sec.w v s.sec l1 ∧ t.sec.pos = l1.pos ∧ t.sec.bits = l1.bits
      ∧ (∀ j, t.sec.data.read j
          = if j ≤ min l1.pos.toNat 24 then l1.data.read j ^^^ 0xFF else l1.data.read j)
      ∧ t.sec.state = .confirmed
      ∧ { t.sec with data := s.sec.data, pos := s.sec.pos, bits := s.sec.bits, state := s.sec.state } = s.sec

/-- R173, R172, R119, R134: a terminating gap on lane SEC, in every state but Done (7 rows). With fewer than 36 bits it
fails; otherwise the buffer is padded and its last five bytes are kept, and the exclusive or of the first four must
have equal nibbles, or it fails; a packet that passes is handed to ADMIT (R115). `l1` is the lane after ALIGN. -/
def Obligations.SecGapKeepsLastFive : Prop :=
  ∀ (st : DecState) (s : State), st ≠ .done → s.sec.state = st → configOk s.cfg → bufferOk s.cfg.sec.w s.sec →
    let w := s.cfg.sec.w
    let n := paddedLen s.sec
    let kept (j : Nat) := paddedByte w s.sec (j + (n - 5))
    let fold := kept 0 ^^^ kept 1 ^^^ kept 2 ^^^ kept 3
    ∃ t, exec (keyInstr .sec st .gap) s = .next t ∧ OnlyLane .sec s t
      ∧ t.reply = .laneFed (decide (t.sec.state = .done))
      ∧ (w * s.sec.pos.toNat + s.sec.bits.toNat < 36 →
          laneStep s.cfg .sec .gap s.sec = .fail .gap ∧ LaneIsReset s.sec t.sec)
      ∧ (36 ≤ w * s.sec.pos.toNat + s.sec.bits.toNat → fold.toNat % 16 ≠ fold.toNat / 16 →
          laneStep s.cfg .sec .gap s.sec = .fail .check ∧ LaneIsReset s.sec t.sec)
      ∧ (36 ≤ w * s.sec.pos.toNat + s.sec.bits.toNat → fold.toNat % 16 = fold.toNat / 16 →
          ∃ l1, l1.pos = 5 ∧ l1.bits = 0 ∧ OnlyBuffer s.sec l1
            ∧ (∀ j, l1.data.read j = if j < 5 then kept j else if 5 < n then 0x00 else paddedByte w s.sec j)
            ∧ HandedOver s.cfg .sec s.now l1 t.sec)

/-! ### Lane EM (44_fsm_em.md) -/

/-- R192: a short pulse in Unknown counts, and the 21st moves to Sync; a long one is `Fail(F_PREAMBLE)` (rows
T.EM.Unknown.S, T.EM.Unknown.L). -/
def Obligations.EmWakeToneCounts : Prop :=
  ∀ s : State, s.em.state = .unknown →
    (∃ t, exec .tEmUnknownS s = .next t ∧ OnlyLane .em s t ∧ t.reply = .laneFed false
      ∧ t.em.run.toNat = min (s.em.run.toNat + 1) 21
      ∧ t.em.state = (if 20 < min (s.em.run.toNat + 1) 21 then .sync else .unknown)
      ∧ { t.em with run := s.em.run, state := s.em.state } = s.em ∧ SameBytes s.em t.em)
    ∧ laneStep s.cfg .em .long s.em = .fail .preamble
    ∧ ∃ t, exec .tEmUnknownL s = .next t ∧ OnlyLane .em s t ∧ t.reply = .laneFed false ∧ LaneIsReset s.em t.em

/-- R193: the one more short pulse ends the preamble and is not stored; a long one is `Fail(F_PREAMBLE)` (rows
T.EM.Sync.S, T.EM.Sync.L). -/
def Obligations.EmSyncPulseConfirms : Prop :=
  ∀ s : State, s.em.state = .sync →
    (∃ t, exec .tEmSyncS s = .next t ∧ OnlyLane .em s t ∧ t.reply = .laneFed false
      ∧ t.em = { s.em with state := .confirmed } ∧ SameBytes s.em t.em)
    ∧ laneStep s.cfg .em .long s.em = .fail .preamble
    ∧ ∃ t, exec .tEmSyncL s = .next t ∧ OnlyLane .em s t ∧ t.reply = .laneFed false ∧ LaneIsReset s.em t.em

/-- R194: one pulse, one bit, 1 for `L` and 0 for `S`; a full buffer overflows (rows T.EM.Confirmed.S,
T.EM.Confirmed.L). -/
def Obligations.EmDataPulseStoresBit : Prop :=
  ∀ (c : PulseClass) (v : Bool) (s : State), (c, v) = (.short, false) ∨ (c, v) = (.long, true) →
    s.em.state = .confirmed → configOk s.cfg → bufferOk s.cfg.em.w s.em →
    ∃ t, exec (keyInstr .em .confirmed c) s = .next t ∧ OnlyLane .em s t ∧ t.reply = .laneFed false
      ∧ (s.em.pos.toNat < 25 → AppendedBit s.cfg.em.w v s.em t.em ∧ OnlyBuffer s.em t.em)
      ∧ (s.em.pos.toNat = 25 → laneStep s.cfg .em c s.em = .fail .overflow ∧ LaneIsReset s.em t.em)

/-! ### Lane WS (45_fsm_ws.md) -/

/-- R212: the alternating run (rows T.WS.Unknown.S, T.WS.Unknown.L): the first pulse, a toggle, the repeated short of
the sync pair after a run of 14 to 20, and every other end of the run, which is `Fail(F_PREAMBLE)`. -/
def Obligations.WsAlternatingRun : Prop :=
  ∀ (c : PulseClass) (bit : Bool) (s : State), (c, bit) = (.short, false) ∨ (c, bit) = (.long, true) →
    s.ws.state = .unknown →
    ∃ t, exec (keyInstr .ws .unknown c) s = .next t ∧ OnlyLane .ws s t ∧ t.reply = .laneFed false
      ∧ (s.ws.run = 0 → t.ws = { s.ws with run := 1, prev := bit } ∧ SameBytes s.ws t.ws)
      ∧ (s.ws.run ≠ 0 → bit ≠ s.ws.prev → t.ws.run.toNat = min (s.ws.run.toNat + 1) 21 ∧ t.ws.prev = bit
          ∧ { t.ws with run := s.ws.run, prev := s.ws.prev } = s.ws ∧ SameBytes s.ws t.ws)
      ∧ (s.ws.run ≠ 0 → bit = s.ws.prev → c = .short → 14 ≤ s.ws.run.toNat → s.ws.run.toNat ≤ 20 →
          t.ws = { s.ws with state := .sync } ∧ SameBytes s.ws t.ws)
      ∧ (s.ws.run ≠ 0 → bit = s.ws.prev → ¬(c = .short ∧ 14 ≤ s.ws.run.toNat ∧ s.ws.run.toNat ≤ 20) →
          laneStep s.cfg .ws c s.ws = .fail .preamble ∧ LaneIsReset s.ws t.ws)

/-- R213: the long half of the sync pair; a short is `Fail(F_PREAMBLE)` (rows T.WS.Sync.L, T.WS.Sync.S). -/
def Obligations.WsSyncPairConfirms : Prop :=
  ∀ s : State, s.ws.state = .sync →
    (∃ t, exec .tWsSyncL s = .next t ∧ OnlyLane .ws s t ∧ t.reply = .laneFed false
      ∧ t.ws = { s.ws with state := .confirmed } ∧ SameBytes s.ws t.ws)
    ∧ laneStep s.cfg .ws .short s.ws = .fail .preamble
    ∧ ∃ t, exec .tWsSyncS s = .next t ∧ OnlyLane .ws s t ∧ t.reply = .laneFed false ∧ LaneIsReset s.ws t.ws

/-- R215, R216, on a raw bit whose number is a multiple of 5 (rows T.WS.PhaseA.L, raw 1, and T.WS.PhaseB.S, raw 0): a
marker is counted and not stored; a wrong one is `Fail(F_MARKER)`. -/
def Obligations.WsMarkerIsChecked : Prop :=
  ∀ (st : DecState) (c : PulseClass) (v : Bool) (s : State),
    (st, c, v) = (.phaseA, .long, true) ∨ (st, c, v) = (.phaseB, .short, false) → s.ws.state = st →
    s.ws.nbits.toNat < 255 → (s.ws.nbits.toNat + 1) % 5 = 0 →
    ∃ t, exec (keyInstr .ws st c) s = .next t ∧ OnlyLane .ws s t ∧ t.reply = .laneFed false
      ∧ (v = s.cfg.wsMarker → t.ws.nbits.toNat = s.ws.nbits.toNat + 1 ∧ t.ws.state = .confirmed
          ∧ { t.ws with nbits := s.ws.nbits, state := s.ws.state } = s.ws ∧ SameBytes s.ws t.ws)
      ∧ (v ≠ s.cfg.wsMarker → laneStep s.cfg .ws c s.ws = .fail .marker ∧ LaneIsReset s.ws t.ws)

/-- R215 to R217, on a raw bit that is no marker, with room in the buffer (the same two rows): the bit is stored; when
it completes slot 0 the low nibble is captured as the type, once; with a known type and the count it fixes the packet
is handed to ADMIT (R115), otherwise the lane rests in Confirmed. `l1` is the lane the step leaves. -/
def Obligations.WsDataBitIsStored : Prop :=
  ∀ (st : DecState) (c : PulseClass) (v : Bool) (s : State),
    (st, c, v) = (.phaseA, .long, true) ∨ (st, c, v) = (.phaseB, .short, false) → s.ws.state = st →
    configOk s.cfg → bufferOk s.cfg.ws.w s.ws → s.ws.pos.toNat < 25 →
    s.ws.nbits.toNat < 255 → (s.ws.nbits.toNat + 1) % 5 ≠ 0 →
    ∃ t l1, exec (keyInstr .ws st c) s = .next t ∧ OnlyLane .ws s t
      ∧ t.reply = .laneFed (decide (t.ws.state = .done))
      ∧ AppendedBit s.cfg.ws.w v s.ws l1 ∧ l1.nbits.toNat = s.ws.nbits.toNat + 1 ∧ l1.state = .confirmed
      ∧ (s.ws.mvalid = false ∧ l1.pos = 1 ∧ l1.bits = 0 →
          l1.mvalid = true ∧ l1.mtype.toNat = (l1.data.read 0).toNat % 16)
      ∧ (¬(s.ws.mvalid = false ∧ l1.pos = 1 ∧ l1.bits = 0) → l1.mvalid = s.ws.mvalid ∧ l1.mtype = s.ws.mtype)
      ∧ { l1 with
            data := s.ws.data, pos := s.ws.pos, bits := s.ws.bits, nbits := s.ws.nbits, state := s.ws.state
            mtype := s.ws.mtype, mvalid := s.ws.mvalid } = s.ws
      ∧ (l1.mvalid = true ∧ (l1.mtype = 1 ∧ l1.nbits.toNat = 49 ∨ l1.mtype = 7 ∧ l1.nbits.toNat = 79) →
          HandedOver s.cfg .ws s.now l1 t.ws)
      ∧ (¬(l1.mvalid = true ∧ (l1.mtype = 1 ∧ l1.nbits.toNat = 49 ∨ l1.mtype = 7 ∧ l1.nbits.toNat = 79)) →
          t.ws = l1)

/-! ### Lane SW (46_fsm_sw.md) -/

/-- R242: short pulses count up to 21 in Unknown; the first long one confirms after more than 20 and is
`Fail(F_PREAMBLE)` before (rows T.SW.Unknown.S, T.SW.Unknown.L). -/
def Obligations.SwPreambleCounts : Prop :=
  ∀ s : State, s.sw.state = .unknown →
    (∃ t, exec .tSwUnknownS s = .next t ∧ OnlyLane .sw s t ∧ t.reply = .laneFed false
      ∧ t.sw.run.toNat = min (s.sw.run.toNat + 1) 21 ∧ { t.sw with run := s.sw.run } = s.sw ∧ SameBytes s.sw t.sw)
    ∧ ∃ t, exec .tSwUnknownL s = .next t ∧ OnlyLane .sw s t ∧ t.reply = .laneFed false
      ∧ (20 < s.sw.run.toNat → t.sw = { s.sw with state := .confirmed } ∧ SameBytes s.sw t.sw)
      ∧ (s.sw.run.toNat ≤ 20 → laneStep s.cfg .sw .long s.sw = .fail .preamble ∧ LaneIsReset s.sw t.sw)

/-- R244 to R246, on a raw bit whose number is a multiple of 9 (rows T.SW.PhaseA.S, raw 0, and T.SW.PhaseB.L, raw 1): a
parity bit must equal the accumulator, or it is `Fail(F_PARITY)`; a good one is counted, not stored, and clears the
accumulator; the last one of the message hands the packet to ADMIT (R115). `l1` is the lane the step leaves. -/
def Obligations.SwParityIsChecked : Prop :=
  ∀ (st : DecState) (c : PulseClass) (v : Bool) (s : State),
    (st, c, v) = (.phaseA, .short, false) ∨ (st, c, v) = (.phaseB, .long, true) → s.sw.state = st →
    configOk s.cfg → bufferOk s.cfg.sw.w s.sw → s.sw.nbits.toNat < 255 → (s.sw.nbits.toNat + 1) % 9 = 0 →
    ∃ t l1, exec (keyInstr .sw st c) s = .next t ∧ OnlyLane .sw s t
      ∧ t.reply = .laneFed (decide (t.sw.state = .done))
      ∧ l1.nbits.toNat = s.sw.nbits.toNat + 1 ∧ l1.par = false ∧ l1.state = .confirmed
      ∧ { l1 with nbits := s.sw.nbits, par := s.sw.par, state := s.sw.state } = s.sw ∧ SameBytes s.sw l1
      ∧ (v ≠ s.sw.par → laneStep s.cfg .sw c s.sw = .fail .parity ∧ LaneIsReset s.sw t.sw)
      ∧ (v = s.sw.par → l1.nbits.toNat = (if s.sw.ext = true then 54 else 45) → HandedOver s.cfg .sw s.now l1 t.sw)
      ∧ (v = s.sw.par → l1.nbits.toNat ≠ (if s.sw.ext = true then 54 else 45) → t.sw = l1)

/-- R244, R245, on a raw bit that is no parity bit, with room in the buffer (the same two rows): the bit is stored and
goes into the accumulator. -/
def Obligations.SwDataBitIsStored : Prop :=
  ∀ (st : DecState) (c : PulseClass) (v : Bool) (s : State),
    (st, c, v) = (.phaseA, .short, false) ∨ (st, c, v) = (.phaseB, .long, true) → s.sw.state = st →
    configOk s.cfg → bufferOk s.cfg.sw.w s.sw → s.sw.pos.toNat < 25 →
    s.sw.nbits.toNat < 255 → (s.sw.nbits.toNat + 1) % 9 ≠ 0 →
    ∃ t, exec (keyInstr .sw st c) s = .next t ∧ OnlyLane .sw s t ∧ t.reply = .laneFed false
      ∧ AppendedBit s.cfg.sw.w v s.sw t.sw ∧ t.sw.nbits.toNat = s.sw.nbits.toNat + 1
      ∧ t.sw.par = (s.sw.par ^^ v) ∧ t.sw.state = .confirmed
      ∧ { t.sw with
            data := s.sw.data, pos := s.sw.pos, bits := s.sw.bits, nbits := s.sw.nbits
            par := s.sw.par, state := s.sw.state } = s.sw

/-! ### What encodes a bit (30_encoding.md R92) -/

/-- R92, R171, R194, R215, R244: on every lane the pulses that encode a bit store it, in a lane that rests in Confirmed
with room in the buffer and the next raw bit neither marker nor parity bit, and whose message does not end with it. -/
def Obligations.BitPulsesStoreTheBit : Prop :=
  ∀ (cfg : Config) (p : LaneId) (now : Nat) (v : Bool) (l : Lane), configOk cfg → bufferOk (cfg.lane p).w l →
    l.state = .confirmed → l.pos.toNat < 25 → l.nbits.toNat < 48 →
    (p = .ws → (l.nbits.toNat + 1) % 5 ≠ 0) → (p = .sw → (l.nbits.toNat + 1) % 9 ≠ 0) →
    ∃ l', (bitPulses p v).foldlM (fun l c => laneFeed cfg p now c l) l = .ok l'
      ∧ AppendedBit (cfg.lane p).w v l l' ∧ l'.state = .confirmed ∧ l'.dedup = l.dedup
      ∧ l'.nbits.toNat = l.nbits.toNat + (if p = .ws ∨ p = .sw then 1 else 0)

/-! ### Micro-operations (41_accumulator.md, 42_dedup.md) -/

/-- R131: APPEND stores the bit at the cursor; at a full buffer it raises the overflow, which the lane takes by its
reset (issued by itself: log 9). -/
def Obligations.AppendMicroOperation : Prop :=
  ∀ (p : LaneId) (v : Bool) (s : State), configOk s.cfg → bufferOk (s.cfg.lane p).w (s.lane p) →
    ∃ t, exec (.append p v) s = .next t ∧ OnlyLane p s t
      ∧ ((s.lane p).pos.toNat < 25 → t.reply = .micro false
          ∧ AppendedBit (s.cfg.lane p).w v (s.lane p) (t.lane p) ∧ OnlyBuffer (s.lane p) (t.lane p))
      ∧ ((s.lane p).pos.toNat = 25 → append (s.cfg.lane p).w v (s.lane p) = .fail .overflow ∧ t.reply = .micro true
          ∧ LaneIsReset (s.lane p) (t.lane p))

/-- R132: MANCH toggles the flip flag by the raw bit and appends it; overflow as for APPEND (issued by itself:
log 9). -/
def Obligations.ManchMicroOperation : Prop :=
  ∀ (p : LaneId) (raw : Bool) (s : State), configOk s.cfg → bufferOk (s.cfg.lane p).w (s.lane p) →
    ∃ t, exec (.manch p raw) s = .next t ∧ OnlyLane p s t
      ∧ ((s.lane p).pos.toNat < 25 → t.reply = .micro false ∧ (t.lane p).flip = ((s.lane p).flip ^^ raw)
          ∧ AppendedBit (s.cfg.lane p).w ((s.lane p).flip ^^ raw) (s.lane p) (t.lane p)
          ∧ OnlyBuffer (s.lane p) { t.lane p with flip := (s.lane p).flip })
      ∧ ((s.lane p).pos.toNat = 25 → t.reply = .micro true ∧ LaneIsReset (s.lane p) (t.lane p))

/-- R133: PAD completes a partial slot with zeros, rolls the cursor and clears the slot it comes to; with `bits = 0` it
does nothing; it raises nothing (issued by itself: log 9). -/
def Obligations.PadMicroOperation : Prop :=
  ∀ (p : LaneId) (s : State), configOk s.cfg → bufferOk (s.cfg.lane p).w (s.lane p) →
    ∃ t, exec (.pad p) s = .next t ∧ OnlyLane p s t ∧ t.reply = .micro false
      ∧ (t.lane p).bits = 0 ∧ (t.lane p).pos.toNat = (s.lane p).pos.toNat + (if (s.lane p).bits = 0 then 0 else 1)
      ∧ (∀ j, (t.lane p).data.read j =
          if (s.lane p).bits = 0 then (s.lane p).data.read j
          else if j = (s.lane p).pos.toNat then
            (s.lane p).data.read j >>> ((s.cfg.lane p).w - (s.lane p).bits.toNat)
          else if j = (s.lane p).pos.toNat + 1 ∧ j < 25 then 0x00
          else (s.lane p).data.read j)
      ∧ OnlyBuffer (s.lane p) (t.lane p)

/-- R134, R88: ALIGN pads; where `max` is given and the buffer holds more bytes it keeps the last `max` at the front and
clears the rest, otherwise (`max` 0, or not below the number of bytes, 26 to 31 among them) it only pads (issued by
itself: log 9). -/
def Obligations.AlignMicroOperation : Prop :=
  ∀ (p : LaneId) (max : BitVec 5) (s : State), configOk s.cfg → bufferOk (s.cfg.lane p).w (s.lane p) →
    let n := paddedLen (s.lane p)
    let byte := paddedByte (s.cfg.lane p).w (s.lane p)
    ∃ t, exec (.align p max) s = .next t ∧ OnlyLane p s t ∧ t.reply = .micro false ∧ (t.lane p).bits = 0
      ∧ OnlyBuffer (s.lane p) (t.lane p)
      ∧ (0 < max.toNat → max.toNat < n → (t.lane p).pos = max
          ∧ ∀ j, (t.lane p).data.read j = if j < max.toNat then byte (j + (n - max.toNat)) else 0x00)
      ∧ (max.toNat = 0 ∨ n ≤ max.toNat → (t.lane p).pos.toNat = n ∧ ∀ j, (t.lane p).data.read j = byte j)

/-- R135: REVB reverses the bits of every completed byte, and nothing else; twice, it restores every byte (issued by
itself: log 9). -/
def Obligations.RevbMicroOperation : Prop :=
  ∀ (p : LaneId) (s : State), configOk s.cfg → bufferOk (s.cfg.lane p).w (s.lane p) →
    ∃ t u, exec (.revb p) s = .next t ∧ OnlyLane p s t ∧ t.reply = .micro false
      ∧ (∀ j b, j < (s.lane p).pos.toNat → b < 8 →
          ((t.lane p).data.read j).getLsbD b = ((s.lane p).data.read j).getLsbD (7 - b))
      ∧ (∀ j, (s.lane p).pos.toNat ≤ j → (t.lane p).data.read j = (s.lane p).data.read j)
      ∧ { t.lane p with data := (s.lane p).data } = s.lane p
      ∧ exec (.revb p) t = .next u ∧ SameBytes (s.lane p) (u.lane p)

/-- R136: REVN exchanges the nibbles of every completed byte, and nothing else; twice, it restores every byte; REVB and
REVN commute (issued by themselves: log 9). -/
def Obligations.RevnMicroOperation : Prop :=
  ∀ (p : LaneId) (s : State), configOk s.cfg → bufferOk (s.cfg.lane p).w (s.lane p) →
    ∃ t u, exec (.revn p) s = .next t ∧ OnlyLane p s t ∧ t.reply = .micro false
      ∧ (∀ j, j < (s.lane p).pos.toNat →
          ((t.lane p).data.read j).toNat % 16 = ((s.lane p).data.read j).toNat / 16
          ∧ ((t.lane p).data.read j).toNat / 16 = ((s.lane p).data.read j).toNat % 16)
      ∧ (∀ j, (s.lane p).pos.toNat ≤ j → (t.lane p).data.read j = (s.lane p).data.read j)
      ∧ { t.lane p with data := (s.lane p).data } = s.lane p
      ∧ exec (.revn p) t = .next u ∧ SameBytes (s.lane p) (u.lane p)
      ∧ ∃ a b c, exec (.revb p) t = .next a ∧ exec (.revb p) s = .next b ∧ exec (.revn p) b = .next c
          ∧ SameBytes (a.lane p) (c.lane p)

/-- R137: INVERT complements slots 0 to `min(pos, 24)`, and nothing else; twice, it restores every byte (issued by
itself: log 9). -/
def Obligations.InvertMicroOperation : Prop :=
  ∀ (p : LaneId) (s : State), configOk s.cfg → bufferOk (s.cfg.lane p).w (s.lane p) →
    ∃ t u, exec (.invert p) s = .next t ∧ OnlyLane p s t ∧ t.reply = .micro false
      ∧ (∀ j, (t.lane p).data.read j =
          if j ≤ min (s.lane p).pos.toNat 24 then ~~~((s.lane p).data.read j) else (s.lane p).data.read j)
      ∧ { t.lane p with data := (s.lane p).data } = s.lane p
      ∧ exec (.invert p) t = .next u ∧ SameBytes (s.lane p) (u.lane p)

/-- R151, R153, R155, R156: ADMIT over the packet and the `now` port: a new checksum or an expired window is accepted
and clears the counter; a repeat inside the window counts up to 255 and is accepted when the counter reaches MIN_COUNT;
checksum and time are recorded in both cases; nothing else changes (issued by itself: log 9). -/
def Obligations.AdmitMicroOperation : Prop :=
  ∀ (p : LaneId) (s : State), (s.lane p).pos.toNat ≤ 25 →
    let d := (s.lane p).dedup
    let crc := ((List.range (s.lane p).pos.toNat).map fun j => (s.lane p).data.read j).foldl (crcUpdate s.cfg.crc) 0xFFFF
    let new := crc ≠ d.lastCrc ∨ (s.cfg.lane p).minGap.toNat < elapsed s.cfg.timeBits s.now d.lastTime
    ∃ t accept, exec (.admitPacket p) s = .next t ∧ OnlyLane p s t ∧ t.reply = .admitted accept
      ∧ (t.lane p).dedup.lastCrc = crc ∧ (t.lane p).dedup.lastTime = s.now
      ∧ (new → accept = true ∧ (t.lane p).dedup.repeats = 0)
      ∧ (¬ new → (t.lane p).dedup.repeats.toNat = min (d.repeats.toNat + 1) 255
          ∧ (accept = true ↔ (t.lane p).dedup.repeats = (s.cfg.lane p).minCount))
      ∧ { t.lane p with dedup := d } = s.lane p ∧ SameBytes (s.lane p) (t.lane p)

/-- R154: elapsed time is the difference modulo `2^TIME_BITS`. -/
def Obligations.ElapsedIsModular : Prop :=
  ∀ timeBits now last : Nat, now < 2 ^ timeBits → last < 2 ^ timeBits →
    elapsed timeBits now last < 2 ^ timeBits ∧ (last + elapsed timeBits now last) % 2 ^ timeBits = now

/-- R156, R157 (a): with MIN_COUNT 0, copies that each arrive within MIN_GAP of the one before are suppressed for as
long as they keep coming. -/
def Obligations.SlidingWindowSuppresses : Prop :=
  ∀ (timeBits : Nat) (c : LaneConfig) (crc : Crc) (last : Nat) (repeats : BitVec 8) (times : List Nat),
    c.minCount = 0 → withinWindow timeBits c last times = true →
    admitAll timeBits c crc times { lastCrc := crc, lastTime := last, repeats := repeats }
      = List.replicate times.length false

/-- R155: with MIN_COUNT 1 to 254, exactly the MIN_COUNT-th consecutive repeat inside the window is reported. -/
def Obligations.RepeatIsReportedOnce : Prop :=
  ∀ (timeBits : Nat) (c : LaneConfig) (crc : Crc) (last : Nat) (times : List Nat),
    0 < c.minCount.toNat → c.minCount.toNat < 255 → withinWindow timeBits c last times = true →
    admitAll timeBits c crc times { lastCrc := crc, lastTime := last, repeats := 0 }
      = (List.range times.length).map fun i => i + 1 == c.minCount.toNat

/-- R44, R302: the DedupRecord is written by ADMIT only. A lane-level FEED whose step does not complete keeps it; so does
every instruction but ADMIT on that lane and a pulse there whose step completes, and every word with `op` 4 to 15 on the
host port. Micro-operations and keys by themselves, and the next state after an illegal word, are the model's choices
(log 9, log 8, log 6). -/
def Obligations.DedupRecordKeptWithoutAdmit : Prop :=
  (∀ (cfg : Config) (p : LaneId) (now : Nat) (c : PulseClass) (l l' : Lane), laneFeed cfg p now c l = .ok l' →
    (l.state = .done ∨ ∀ l1, laneStep cfg p c l ≠ .complete l1) → l'.dedup = l.dedup)
  ∧ (∀ (i : Instr) (p : LaneId) (s t : State), i ≠ .admitPacket p → ¬ PulseCompletes i p s → exec i s = .next t →
    (t.lane p).dedup = (s.lane p).dedup)
  ∧ ∀ (s t : State) (n w : Nat) (rest : List Request), s.inbox = ⟨n, .host w⟩ :: rest →
    4 * 2 ^ (s.cfg.widthBits + 4) ≤ w → w < 2 ^ (s.cfg.widthBits + 8) → step s = .next t →
    ∀ p, (t.lane p).dedup = (s.lane p).dedup

/-! ### The whole machine -/

/-- R122: a host operation makes a lane hold a packet only as a FEED whose step on that lane completed and whose packet
ADMIT accepted. -/
def Obligations.PacketHeldOnlyWhenAdmitted : Prop :=
  ∀ (i : Instr) (p q : LaneId) (s t : State), buffersInv s →
    (∃ width, i = .feed width) ∨ i = .nop ∨ i = .take q ∨ i = .reset q → exec i s = .next t →
    (s.lane p).state ≠ .done → (t.lane p).state = .done →
    ∃ width l1, i = .feed width ∧ laneStep s.cfg p (classify s.cfg p width) (s.lane p) = .complete l1
      ∧ (admitRecord s.cfg.timeBits (s.cfg.lane p) (crcOf s.cfg.crc (completedPacket (s.cfg.lane p) l1)) s.now
          (s.lane p).dedup).1 = true

/-- R178 (a), the source's checksum gate: a packet that lane SEC comes to hold, with any post-processing, has five bytes
and passes the nibble check. -/
def Obligations.SecPacketsPassTheCheck : Prop :=
  ∀ (cfg : Config) (now : Nat) (c : PulseClass) (l l' : Lane), configOk cfg → bufferOk cfg.sec.w l →
    laneFeed cfg .sec now c l = .ok l' → l.state ≠ .done → l'.state = .done →
    let fold := l'.data.read 0 ^^^ l'.data.read 1 ^^^ l'.data.read 2 ^^^ l'.data.read 3
    l'.pos = 5 ∧ fold.toNat % 16 = fold.toNat / 16

/-- R248 (a): with 8 bits per byte, a packet that lane SW comes to hold has exactly five bytes. -/
def Obligations.SwPacketsHaveFiveBytes : Prop :=
  ∀ (cfg : Config) (now : Nat) (c : PulseClass) (l l' : Lane), configOk cfg → laneInv cfg .sw l → cfg.sw.w = 8 →
    laneFeed cfg .sw now c l = .ok l' → l.state ≠ .done → l'.state = .done → l'.pos = 5

/-- R132: MANCH of a raw stream appends the running exclusive or of the stream, and leaves the last of it in the flip
flag. -/
def Obligations.ManchAppendsRunningXor : Prop :=
  ∀ (w : Nat) (raws : List Bool) (l l' : Lane), manchAll w raws l = .ok l' →
    appendAll w (runningXor l.flip raws) l = .ok { l' with flip := l.flip }
    ∧ l'.flip = raws.foldl (fun f r => f ^^ r) l.flip

/-- R63: the layout of a slot completed by `w` APPENDs: the first bit received is the lowest of the `w` top bits, the
last is bit 7; with `w = 7`, bit 0 is 0. -/
def Obligations.CompletedSlotLayout : Prop :=
  ∀ (w : Nat) (vs : List Bool) (l : Lane), w = 7 ∨ w = 8 → vs.length = w → bufferOk w l → l.pos.toNat < 25 →
    l.bits = 0 → l.data.read l.pos.toNat = 0x00 →
    ∃ l', appendAll w vs l = .ok l' ∧ l'.pos.toNat = l.pos.toNat + 1 ∧ l'.bits = 0
      ∧ (∀ i, i < w → (l'.data.read l.pos.toNat).getLsbD (8 - w + i) = vs.getD i false)
      ∧ (w = 7 → (l'.data.read l.pos.toNat).getLsbD 0 = false)

/-- R301, R55: the state after the power-on reset, lane by lane; the configuration never changes (R48, R316). -/
def Obligations.PowerOnValues : Prop :=
  (∀ p : LaneId, let l := State.reset.lane p
    (∀ i, l.data.read i = 0x00) ∧ l.pos = 0 ∧ l.bits = 0 ∧ l.flip = false ∧ l.state = .unknown ∧ l.run = 0
    ∧ l.prev = false ∧ l.nbits = 0 ∧ l.par = false ∧ l.ext = false ∧ l.mtype = 0 ∧ l.mvalid = false
    ∧ l.dedup.lastCrc = 0x0000 ∧ l.dedup.lastTime = 0 ∧ l.dedup.repeats = 0 ∧ State.reset.avail p = false)
  ∧ ∀ s t : State, step s = .next t → t.cfg = s.cfg

/-- R41: the invariants hold after the power-on reset. (The configuration there is the spec's default: log 1.) -/
def Obligations.PowerOnMeetsInvariant : Prop := blockInv State.reset

/-- R41, R25, R31, R33, R139: every step but a micro-operation issued by itself keeps the invariant of the block: the
cursors in range, the states of each lane's subset, `ext` 0, unused registers at reset, the counts of raw and stored
bits in agreement, the memory canonical. Pulses at one lane are the model's choice (log 8), and so is the next state after
an illegal word (log 6). -/
def Obligations.StepKeepsBlockInvariant : Prop :=
  ∀ s t : State, blockInv s → nextIsNoMicro s = true → step s = .next t → blockInv t

/-- R41 (I-a) to (I-c), R60: every step, micro-operations by themselves (log 9) and pulses at one lane (log 8) included,
keeps the cursors in range and the memory canonical. -/
def Obligations.StepKeepsBuffersInvariant : Prop :=
  ∀ s t : State, buffersInv s → step s = .next t → buffersInv t

/-- 93_implementation_defined.md, end of part 1: whatever the ports present, a step completes; no fault and no refusal
is reached. The spec's sentence is about host operations. That an illegal word on the host port is a next state is the
model's choice, against R87's advice to refuse it (log 6); so are pulses at one lane (log 8) and micro-operation words
(log 9) as requests. -/
def Obligations.StepAlwaysCompletes : Prop :=
  ∀ s : State, buffersInv s → ∃ t, step s = .next t

/-- R52: while `avail` is 1 the outputs show the packet. Nothing is said of them while it is 0 (U2). -/
def Obligations.OutputsShowHeldPacket : Prop :=
  ∀ (p : LaneId) (s : State), (s.avail p = true ↔ (s.lane p).state = .done)
    ∧ (s.avail p = true → s.pktLen p = (s.lane p).pos ∧ ∀ i, s.pktData p i = (s.lane p).data.read i)

/-- R40, R60: buffers in canonical form that read the same are the same; a write is read back and leaves every other
slot alone. -/
def Obligations.CanonicalMemoryLaws : Prop :=
  (∀ m m' : Memory, m.wf = true → m'.wf = true → (∀ i, m.read i = m'.read i) → m = m')
  ∧ ∀ (m : Memory) (i k : Nat) (v : Byte), m.wf = true → i < 25 →
    (m.write i v).wf = true ∧ (m.write i v).read k = if k = i then v else m.read k
end

