-- ==== Sys2Proof/Laws/State.lean ====
section
/-!
SUPPORT. The small lemmas of the state record: one per field and update, so that no proof unfolds an update.
-/

namespace Sys2Proof.Machine

@[simp] theorem State.setLane_cfg (s : State) (p : LaneId) (l : Lane) : (s.setLane p l).cfg = s.cfg := by cases p <;> rfl
@[simp] theorem State.setLane_now (s : State) (p : LaneId) (l : Lane) : (s.setLane p l).now = s.now := by cases p <;> rfl
@[simp] theorem State.setLane_inbox (s : State) (p : LaneId) (l : Lane) : (s.setLane p l).inbox = s.inbox := by
  cases p <;> rfl
@[simp] theorem State.setLane_reply (s : State) (p : LaneId) (l : Lane) : (s.setLane p l).reply = s.reply := by
  cases p <;> rfl
@[simp] theorem State.lane_setLane (s : State) (p : LaneId) (l : Lane) : (s.setLane p l).lane p = l := by
  cases p <;> rfl
theorem State.lane_setLane_of_ne (s : State) {p q : LaneId} (l : Lane) (h : q ≠ p) :
    (s.setLane p l).lane q = s.lane q := by cases p <;> cases q <;> first | rfl | exact absurd rfl h
@[simp] theorem State.setLane_lane (s : State) (p : LaneId) : s.setLane p (s.lane p) = s := by cases p <;> rfl

@[simp] theorem State.answer_lane (s : State) (r : Reply) (p : LaneId) : (s.answer r).lane p = s.lane p := by
  cases p <;> rfl
@[simp] theorem State.answer_sec (s : State) (r : Reply) : (s.answer r).sec = s.sec := rfl
@[simp] theorem State.answer_em (s : State) (r : Reply) : (s.answer r).em = s.em := rfl
@[simp] theorem State.answer_ws (s : State) (r : Reply) : (s.answer r).ws = s.ws := rfl
@[simp] theorem State.answer_sw (s : State) (r : Reply) : (s.answer r).sw = s.sw := rfl
@[simp] theorem State.answer_cfg (s : State) (r : Reply) : (s.answer r).cfg = s.cfg := rfl
@[simp] theorem State.answer_now (s : State) (r : Reply) : (s.answer r).now = s.now := rfl
@[simp] theorem State.answer_inbox (s : State) (r : Reply) : (s.answer r).inbox = s.inbox := rfl
@[simp] theorem State.answer_reply (s : State) (r : Reply) : (s.answer r).reply = r := rfl

@[simp] theorem State.advance_lane (s : State) (p : LaneId) : s.advance.lane p = s.lane p := by
  unfold State.advance; split <;> cases p <;> rfl
@[simp] theorem State.advance_cfg (s : State) : s.advance.cfg = s.cfg := by unfold State.advance; split <;> rfl

@[simp] theorem Lane.reset_data (l : Lane) : l.reset.data = [] := rfl
@[simp] theorem Lane.reset_pos (l : Lane) : l.reset.pos = 0 := rfl
@[simp] theorem Lane.reset_bits (l : Lane) : l.reset.bits = 0 := rfl
@[simp] theorem Lane.reset_flip (l : Lane) : l.reset.flip = false := rfl
@[simp] theorem Lane.reset_state (l : Lane) : l.reset.state = .unknown := rfl
@[simp] theorem Lane.reset_run (l : Lane) : l.reset.run = 0 := rfl
@[simp] theorem Lane.reset_prev (l : Lane) : l.reset.prev = false := rfl
@[simp] theorem Lane.reset_nbits (l : Lane) : l.reset.nbits = 0 := rfl
@[simp] theorem Lane.reset_par (l : Lane) : l.reset.par = false := rfl
@[simp] theorem Lane.reset_ext (l : Lane) : l.reset.ext = false := rfl
@[simp] theorem Lane.reset_mtype (l : Lane) : l.reset.mtype = 0 := rfl
@[simp] theorem Lane.reset_mvalid (l : Lane) : l.reset.mvalid = false := rfl
@[simp] theorem Lane.reset_dedup (l : Lane) : l.reset.dedup = l.dedup := rfl
@[simp] theorem Lane.takeFail_eq_reset (l : Lane) (c : FailCause) : l.takeFail c = l.reset := rfl

/-- The configuration fields by lane (R9, R10). -/
@[simp] theorem configLane_sec (c : Config) : c.lane .sec = c.sec := rfl
@[simp] theorem configLane_em (c : Config) : c.lane .em = c.em := rfl
@[simp] theorem configLane_ws (c : Config) : c.lane .ws = c.ws := rfl
@[simp] theorem configLane_sw (c : Config) : c.lane .sw = c.sw := rfl

/-- Lane `p` replaced: nothing else differs but the reply. -/
theorem onlyLane_setLane_answer (s : State) (p : LaneId) (l : Lane) (r : Reply) :
    OnlyLane p s ((s.setLane p l).answer r) :=
  ⟨fun _ h => by simp [State.lane_setLane_of_ne _ _ h], by simp, by simp, by simp⟩

end Sys2Proof.Machine
end

