-- ==== Sys2Proof/Laws/Memory.lean ====
section
/-!
SUPPORT. The laws of the buffer: a write is read back, leaves every other slot alone and keeps the canonical form; the
loops over slots byte by byte.
-/

namespace Sys2Proof.Machine

@[simp] theorem Memory.read_nil (i : Nat) : Memory.read [] i = 0 := rfl

@[simp] theorem Memory.wf_nil : Memory.wf [] = true := rfl

theorem Memory.wfFrom_cons {lo j : Nat} {b : Byte} {m : Memory} :
    Memory.wfFrom lo ((j, b) :: m) = true ↔ lo ≤ j ∧ j < 25 ∧ b ≠ 0 ∧ Memory.wfFrom (j + 1) m = true := by
  simp only [Memory.wfFrom, Bool.and_eq_true, decide_eq_true_eq, and_assoc]

theorem Memory.wfFrom_mono {lo lo' : Nat} {m : Memory} (h : Memory.wfFrom lo m = true) (hle : lo' ≤ lo) :
    Memory.wfFrom lo' m = true := by
  cases m with
  | nil => rfl
  | cons c m => obtain ⟨j, b⟩ := c; rw [Memory.wfFrom_cons] at h ⊢; exact ⟨by omega, h.2⟩

theorem Memory.read_below {lo i : Nat} {m : Memory} (h : Memory.wfFrom lo m = true) (hi : i < lo) :
    Memory.read m i = 0 := by
  induction m generalizing lo with
  | nil => rfl
  | cons c m ih =>
    obtain ⟨j, b⟩ := c
    rw [Memory.wfFrom_cons] at h
    rw [Memory.read, if_neg (by omega)]
    exact ih h.2.2.2 (by omega)

/-- A slot past the last reads as an unlisted one. -/
theorem Memory.read_outside {i : Nat} {m : Memory} {lo : Nat} (h : Memory.wfFrom lo m = true) (hi : 25 ≤ i) :
    Memory.read m i = 0 := by
  induction m generalizing lo with
  | nil => rfl
  | cons c m ih =>
    obtain ⟨j, b⟩ := c
    rw [Memory.wfFrom_cons] at h
    rw [Memory.read, if_neg (by omega)]
    exact ih h.2.2.2

/-- A write keeps the canonical form. -/
theorem Memory.wfFrom_write {lo i : Nat} {v : Byte} {m : Memory} (h : Memory.wfFrom lo m = true) (hlo : lo ≤ i)
    (hi : i < 25) : Memory.wfFrom lo (m.write i v) = true := by
  induction m generalizing lo with
  | nil =>
    rw [Memory.write]
    split
    · rfl
    · rename_i hv
      exact Memory.wfFrom_cons.2 ⟨hlo, hi, hv, rfl⟩
  | cons c m ih =>
    obtain ⟨j, b⟩ := c
    have h' := Memory.wfFrom_cons.1 h
    rw [Memory.write]
    split
    · split
      · exact h
      · rename_i hij hv
        exact Memory.wfFrom_cons.2 ⟨hlo, hi, hv, Memory.wfFrom_cons.2 ⟨by omega, h'.2⟩⟩
    · split
      · split
        · exact Memory.wfFrom_mono h'.2.2.2 (by omega)
        · rename_i hij hv
          subst hij
          exact Memory.wfFrom_cons.2 ⟨hlo, hi, hv, h'.2.2.2⟩
      · exact Memory.wfFrom_cons.2 ⟨h'.1, h'.2.1, h'.2.2.1, ih h'.2.2.2 (by omega)⟩

theorem Memory.wf_write {i : Nat} {v : Byte} {m : Memory} (h : m.wf = true) (hi : i < 25) : (m.write i v).wf = true :=
  Memory.wfFrom_write h (Nat.zero_le _) hi

theorem Memory.read_write_from {lo i : Nat} {v : Byte} {m : Memory} (h : Memory.wfFrom lo m = true) :
    (m.write i v).read i = v := by
  induction m generalizing lo with
  | nil =>
    rw [Memory.write]
    split
    · rename_i hv; exact hv.symm
    · simp [Memory.read]
  | cons c m ih =>
    obtain ⟨j, b⟩ := c
    have h' := Memory.wfFrom_cons.1 h
    rw [Memory.write]
    split
    · rename_i hij
      split
      · rename_i hv
        rw [hv, Memory.read, if_neg (by omega)]
        exact Memory.read_below h'.2.2.2 (by omega)
      · simp [Memory.read]
    · split
      · split
        · rename_i hij hv
          rw [hv]
          exact Memory.read_below h'.2.2.2 (by omega)
        · simp [Memory.read]
      · rw [Memory.read, if_neg (by omega)]
        exact ih h'.2.2.2

/-- Read after a write to the same slot. -/
theorem Memory.read_write_same {i : Nat} {v : Byte} {m : Memory} (h : m.wf = true) : (m.write i v).read i = v :=
  Memory.read_write_from h

/-- A write leaves every other slot alone. -/
theorem Memory.read_write_other {i k : Nat} {v : Byte} {m : Memory} (h : k ≠ i) : (m.write i v).read k = m.read k := by
  induction m with
  | nil => rw [Memory.write]; split <;> simp [Memory.read, Ne.symm h, Memory.unlisted]
  | cons c m ih =>
    obtain ⟨j, b⟩ := c
    rw [Memory.write]
    split
    · split
      · rfl
      · simp [Memory.read, Ne.symm h]
    · split
      · rename_i hij
        subst hij
        split <;> simp [Memory.read, Ne.symm h]
      · rw [Memory.read, Memory.read, ih]

/-- The two laws of a write at once. -/
theorem Memory.read_write {i k : Nat} {v : Byte} {m : Memory} (h : m.wf = true) :
    (m.write i v).read k = if k = i then v else m.read k := by
  split
  · subst k; exact Memory.read_write_same h
  · exact Memory.read_write_other ‹_›

/-- `mapSlots` keeps the canonical form and maps exactly the slots below `n`. -/
theorem Memory.mapSlots_spec {f : Byte → Byte} {n : Nat} {m : Memory} (h : m.wf = true) (hn : n ≤ 25) :
    (Memory.mapSlots f n m).wf = true
      ∧ ∀ k, (Memory.mapSlots f n m).read k = if k < n then f (m.read k) else m.read k := by
  induction n with
  | zero => exact ⟨h, fun k => by simp [Memory.mapSlots]⟩
  | succ n ih =>
    obtain ⟨hw, hr⟩ := ih (by omega)
    refine ⟨Memory.wf_write hw (by omega), fun k => ?_⟩
    rw [Memory.mapSlots, Memory.read_write hw, hr, hr]
    by_cases hk : k = n
    · subst hk; simp
    · simp [hk, show (k < n + 1) = (k < n) by simp; omega]

/-- `moveDown` keeps the canonical form and moves exactly `count` slots by `n`. -/
theorem Memory.moveDown_spec {n count : Nat} {m : Memory} (h : m.wf = true) (hc : count ≤ 25) :
    (Memory.moveDown n count m).wf = true
      ∧ ∀ k, (Memory.moveDown n count m).read k = if k < count then m.read (k + n) else m.read k := by
  induction count with
  | zero => exact ⟨h, fun k => by simp [Memory.moveDown]⟩
  | succ count ih =>
    obtain ⟨hw, hr⟩ := ih (by omega)
    refine ⟨Memory.wf_write hw (by omega), fun k => ?_⟩
    rw [Memory.moveDown, Memory.read_write hw, hr, hr]
    by_cases hk : k = count
    · subst hk; simp
    · simp [hk, show (k < count + 1) = (k < count) by simp; omega]

/-- `clear` keeps the canonical form and clears exactly the slots from `lo` on, `count` of them. -/
theorem Memory.clear_spec {lo count : Nat} {m : Memory} (h : m.wf = true) (hc : lo + count ≤ 25) :
    (Memory.clear lo count m).wf = true
      ∧ ∀ k, (Memory.clear lo count m).read k = if lo ≤ k ∧ k < lo + count then 0x00 else m.read k := by
  induction count with
  | zero => exact ⟨h, fun k => by rw [Memory.clear, if_neg (by omega)]⟩
  | succ count ih =>
    obtain ⟨hw, hr⟩ := ih (by omega)
    refine ⟨Memory.wf_write hw (by omega), fun k => ?_⟩
    rw [Memory.clear, Memory.read_write hw, hr]
    by_cases hk : k = lo + count
    · subst hk; simp
    · simp [hk, show (k < lo + (count + 1)) = (k < lo + count) by simp; omega]

/-- Keeping the last `max` of `pos` bytes (R134). -/
theorem keepLast_spec {max pos : Nat} {m : Memory} (h : m.wf = true) (hm : max ≤ 25) :
    (keepLast max pos m).wf = true
      ∧ ∀ k, (keepLast max pos m).read k
          = if k < max then m.read (k + (pos - max)) else if k < 25 then 0x00 else m.read k := by
  obtain ⟨hw, hr⟩ := Memory.moveDown_spec (n := pos - max) h hm
  obtain ⟨hw', hr'⟩ := Memory.clear_spec (lo := max) (count := cap - max) hw (by simp [cap]; omega)
  refine ⟨hw', fun k => ?_⟩
  rw [keepLast, hr', hr]
  by_cases hk : k < max
  · rw [if_neg (by omega), if_pos hk, if_pos hk]
  · by_cases hk' : k < 25
    · rw [if_pos (by simp [cap]; omega), if_neg hk, if_pos hk']
    · rw [if_neg (by simp [cap]; omega), if_neg hk, if_neg hk, if_neg hk']

end Sys2Proof.Machine
end

