-- ==== Sys2Proof/Laws/Accumulator.lean ====
section
/-!
SUPPORT. What each operation of the Bit Accumulator can do, said once, for a lane whose buffer is in order
(`bufferOk`) and 7 or 8 bits per byte (R9, R11).
-/

namespace Sys2Proof.Machine

theorem OnlyBuffer.refl (l : Lane) : OnlyBuffer l l := rfl

theorem OnlyBuffer.trans {a b c : Lane} (h : OnlyBuffer a b) (h' : OnlyBuffer b c) : OnlyBuffer a c := by
  unfold OnlyBuffer at *
  rw [← h, ← h']

theorem OnlyBuffer.dedup {l l' : Lane} (h : OnlyBuffer l l') : l'.dedup = l.dedup := by
  rw [← h]

theorem OnlyBuffer.state {l l' : Lane} (h : OnlyBuffer l l') : l'.state = l.state := by
  rw [← h]

/-- APPEND to a full buffer raises the overflow (R131). -/
theorem append_full {w : Nat} {v : Bool} {l : Lane} (h : l.pos.toNat = 25) : append w v l = .fail .overflow := by
  simp [append, cap, h]

/-- APPEND where a slot is free (R131). -/
theorem append_spec {w : Nat} {v : Bool} {l : Lane} (hw : w = 7 ∨ w = 8) (h : bufferOk w l)
    (hp : l.pos.toNat < 25) :
    ∃ l', append w v l = .ok l' ∧ bufferOk w l' ∧ AppendedBit w v l l' ∧ OnlyBuffer l l' := by
  obtain ⟨⟨-, hb, -⟩, hm⟩ := h
  have hb' : (l.bits + 1).toNat = l.bits.toNat + 1 := by rw [BitVec.toNat_add]; simp; omega
  have hp' : (l.pos + 1).toNat = l.pos.toNat + 1 := by rw [BitVec.toNat_add]; simp; omega
  have hmw : (l.data.write l.pos.toNat (shiftIn v (l.data.read l.pos.toNat))).wf = true := Memory.wf_write hm hp
  simp only [append, cap, show ¬ l.pos.toNat = 25 by omega, show ¬ 25 < l.pos.toNat by omega, if_false, hb']
  by_cases hf : l.bits.toNat + 1 = w
  · simp only [hf, if_true]
    refine ⟨_, rfl, ?_, ⟨?_, ?_, ?_, ?_⟩, rfl⟩
    · refine ⟨⟨by simp only [roll, hp']; omega, by simp [roll]; omega, fun _ => rfl⟩, ?_⟩
      simp only [roll, hp', cap]
      split
      · exact Memory.wf_write hmw (by omega)
      · exact hmw
    · simp only [roll, hp', cap]
      split
      · rw [Memory.read_write_other (by omega), Memory.read_write_same hm]; rfl
      · rw [Memory.read_write_same hm]; rfl
    · refine fun _ => ⟨rfl, hp', fun hlt => ?_⟩
      simp only [roll, hp', cap, hlt, if_true]
      rw [Memory.read_write_same hmw]
    · simp [fillsSlot, hf]
    · intro j hj hj'
      have hfs : fillsSlot w l = true := by simp [fillsSlot, hf]
      simp only [roll, hp', cap]
      split
      · rw [Memory.read_write_other (fun e => hj' ⟨hfs, e, by omega⟩), Memory.read_write_other hj]
      · rw [Memory.read_write_other hj]
  · simp only [hf, if_false]
    refine ⟨_, rfl, ?_, ⟨?_, ?_, ?_, ?_⟩, rfl⟩
    · exact ⟨⟨by simp only; omega, by simp only [hb']; omega, by simp only; omega⟩, hmw⟩
    · rw [Memory.read_write_same hm]; rfl
    · simp [fillsSlot, hf]
    · exact fun _ => ⟨hb', rfl⟩
    · exact fun j hj _ => Memory.read_write_other hj

/-- One more bit is collected (R172). -/
theorem AppendedBit.collected {w : Nat} {v : Bool} {l l' : Lane} (h : AppendedBit w v l l') :
    collected w l' = collected w l + 1 := by
  obtain ⟨-, h1, h2, -⟩ := h
  unfold Machine.collected
  cases hf : fillsSlot w l
  · obtain ⟨hb, hp⟩ := h2 hf
    rw [hp, hb]; rfl
  · obtain ⟨hb, hp, -⟩ := h1 hf
    rw [hp, hb]
    simp only [fillsSlot, beq_iff_eq] at hf
    simp [Nat.mul_add]; omega

/-- The rest of a padding: `w - bits` zeros complete the slot (R133). -/
theorem padLoop_spec {w : Nat} (hw : w = 7 ∨ w = 8) (r : Nat) :
    ∀ (n : Nat) (l : Lane), bufferOk w l → l.bits ≠ 0 → l.bits.toNat + r = w → r ≤ n →
    ∃ l', padLoop w n l = .ok l' ∧ bufferOk w l' ∧ l'.bits = 0 ∧ l'.pos.toNat = l.pos.toNat + 1
      ∧ (∀ j, l'.data.read j = if j = l.pos.toNat then l.data.read j >>> r
          else if j = l.pos.toNat + 1 ∧ j < 25 then 0x00 else l.data.read j)
      ∧ OnlyBuffer l l' := by
  induction r with
  | zero =>
    intro n l h hb hr
    have := h.1.2.1
    omega
  | succ r ih =>
    intro n l h hb hr hn
    have h0 := h
    obtain ⟨⟨hp25, -, hcap⟩, -⟩ := h0
    have hp : l.pos.toNat < 25 := by
      rcases Nat.lt_or_ge l.pos.toNat 25 with h | h
      · exact h
      · exact absurd (hcap (by omega)) hb
    obtain ⟨l1, ha, hok, hap, hob⟩ := append_spec (v := false) hw h hp
    obtain ⟨n, rfl⟩ : ∃ m, n = m + 1 := ⟨n - 1, by omega⟩
    obtain ⟨hread, hfull, hpart, hrest⟩ := hap
    rw [padLoop, if_neg hb, ha]
    simp only [Res.bind]
    have hread : l1.data.read l.pos.toNat = l.data.read l.pos.toNat >>> 1 := by simp [hread]
    by_cases hf : l.bits.toNat + 1 = w
    · have hfs : fillsSlot w l = true := by simp [fillsSlot, hf]
      obtain ⟨hb1, hp1, hz1⟩ := hfull hfs
      refine ⟨l1, ?_, hok, hb1, hp1, fun j => ?_, hob⟩
      · cases n <;> simp [padLoop, hb1]
      · have : r = 0 := by omega
        subst this
        split
        · rename_i hj; rw [hj, hread]
        · split
          · rename_i hj hj'; rw [hj'.1]; exact hz1 (by omega)
          · rename_i hj hj'; exact hrest j hj (fun e => hj' ⟨e.2.1, e.2.2⟩)
    · have hfs : fillsSlot w l = false := by simp [fillsSlot, hf]
      obtain ⟨hb1, hp1⟩ := hpart hfs
      have hb1' : l1.bits ≠ 0 := by
        intro e; rw [e] at hb1; simp at hb1
      obtain ⟨l', hl', hok', hb', hp', hr', hob'⟩ := ih n l1 hok hb1' (by omega) (by omega)
      refine ⟨l', hl', hok', hb', by rw [hp', hp1], fun j => ?_, hob.trans hob'⟩
      rw [hr', hp1]
      have hsame : j ≠ l.pos.toNat → l1.data.read j = l.data.read j :=
        fun hj => hrest j hj (fun e => by simp [hfs] at e)
      split
      · rename_i hj
        rw [hj, hread, ← BitVec.shiftRight_add, Nat.add_comm]
      · split
        · rfl
        · rename_i hj _; exact hsame hj

/-- PAD in closed form (R133). It raises nothing. -/
theorem pad_spec {w : Nat} {l : Lane} (hw : w = 7 ∨ w = 8) (h : bufferOk w l) :
    ∃ l', pad w l = .ok l' ∧ bufferOk w l' ∧ l'.bits = 0 ∧ l'.pos.toNat = paddedLen l
      ∧ (∀ j, l'.data.read j = paddedByte w l j) ∧ OnlyBuffer l l' := by
  by_cases hb : l.bits = 0
  · exact ⟨l, by simp [pad, padLoop, hb], h, hb, by simp [paddedLen, hb], fun j => by simp [paddedByte, hb], .refl l⟩
  · have hlt := h.1.2.1
    obtain ⟨l', h1, h2, h3, h4, h5, h6⟩ := padLoop_spec hw (w - l.bits.toNat) 15 l h hb (by omega) (by omega)
    refine ⟨l', h1, h2, h3, by rw [h4, paddedLen, if_neg hb], fun j => by simp only [h5, paddedByte, hb, if_false], h6⟩

/-- The length ALIGN leaves (R134). -/
def alignedLen (max : BitVec 5) (l : Lane) : Nat :=
  if 0 < max.toNat ∧ max.toNat < paddedLen l then max.toNat else paddedLen l

/-- ALIGN (R134): PAD, then the last `max` bytes at the front where there are more. It raises nothing. -/
theorem align_spec {w : Nat} {max : BitVec 5} {l : Lane} (hw : w = 7 ∨ w = 8) (h : bufferOk w l) :
    ∃ l', align w max l = .ok l' ∧ bufferOk w l' ∧ l'.bits = 0 ∧ l'.pos.toNat = alignedLen max l
      ∧ (0 < max.toNat ∧ max.toNat < paddedLen l →
          ∀ j, l'.data.read j = if j < max.toNat then paddedByte w l (j + (paddedLen l - max.toNat)) else 0x00)
      ∧ (¬(0 < max.toNat ∧ max.toNat < paddedLen l) → ∀ j, l'.data.read j = paddedByte w l j)
      ∧ OnlyBuffer l l' := by
  obtain ⟨l1, h1, hok, hb, hp, hr, hob⟩ := pad_spec hw h
  have hok' := hok
  obtain ⟨⟨hp25, hbw, -⟩, hm⟩ := hok'
  simp only [align, h1, Res.bind, hp]
  by_cases hc : 0 < max.toNat ∧ max.toNat < paddedLen l
  · obtain ⟨hkw, hkr⟩ := keepLast_spec (max := max.toNat) (pos := paddedLen l) hm (by omega)
    rw [if_pos hc, if_neg (by simp [cap]; omega)]
    refine ⟨_, rfl, ?_, hb, by simp [alignedLen, hc], fun _ j => ?_, fun hn => absurd hc hn, hob⟩
    · exact ⟨⟨by simp only; omega, hbw, fun _ => hb⟩, hkw⟩
    · simp only [hkr, hr]
      split
      · rfl
      · split
        · rfl
        · rw [← hr]; exact Memory.read_outside hm (by omega)
  · rw [if_neg hc]
    exact ⟨l1, rfl, hok, hb, by simp only [alignedLen, if_neg hc, hp], fun hy => absurd hy hc, fun _ => hr, hob⟩

/-- REVB and REVN (R135, R136): exactly the completed bytes are mapped. -/
theorem mapCompleted_spec {w : Nat} {f : Byte → Byte} {l : Lane} (h : bufferOk w l) :
    ∃ l', mapCompleted f l = .ok l' ∧ bufferOk w l' ∧ l'.pos = l.pos ∧ l'.bits = l.bits
      ∧ (∀ j, l'.data.read j = if j < l.pos.toNat then f (l.data.read j) else l.data.read j) ∧ OnlyBuffer l l' := by
  obtain ⟨hc, hm⟩ := h
  obtain ⟨hkw, hkr⟩ := Memory.mapSlots_spec (f := f) (n := l.pos.toNat) hm hc.1
  rw [mapCompleted, if_neg (by simp [cap]; omega)]
  exact ⟨_, rfl, ⟨hc, hkw⟩, rfl, rfl, hkr, rfl⟩

/-- The bits of `bitrev8` (R135). -/
theorem bitrev8_getLsbD (b : Byte) (i : Nat) (hi : i < 8) : (bitrev8 b).getLsbD i = b.getLsbD (7 - i) := by
  have h : ∀ (i : Fin 8) (b : Byte), (bitrev8 b).getLsbD i = b.getLsbD (7 - i) := by decide
  exact h ⟨i, hi⟩ b

/-- Post-processing is bit by bit: it goes through an exclusive or (R115, R173). -/
theorem postByte_xor (post : Post) (a b : Byte) : postByte post (a ^^^ b) = postByte post a ^^^ postByte post b := by
  cases post with
  | none => rfl
  | revb =>
    refine BitVec.eq_of_getLsbD_eq fun i hi => ?_
    simp only [postByte, BitVec.getLsbD_xor, bitrev8_getLsbD _ i hi]
  | revn =>
    simp only [postByte, swapNibbles, BitVec.extractLsb'_xor]
    exact BitVec.xor_append.symm

/-- INVERT (R137): slots 0 to `min(pos, 24)` are complemented. -/
theorem invert_spec {w : Nat} {l : Lane} (h : bufferOk w l) :
    bufferOk w (invert l)
      ∧ (∀ j, (invert l).data.read j = if j ≤ min l.pos.toNat 24 then l.data.read j ^^^ 0xFF else l.data.read j)
      ∧ OnlyBuffer l (invert l) := by
  obtain ⟨hc, hm⟩ := h
  obtain ⟨hkw, hkr⟩ := Memory.mapSlots_spec (f := fun b => b ^^^ 0xFF) (n := min l.pos.toNat 24 + 1) hm (by omega)
  exact ⟨⟨hc, hkw⟩, fun j => by simp only [invert, hkr, Nat.lt_succ_iff], rfl⟩

end Sys2Proof.Machine
end

