-- ==== Sys2Proof/Laws/Decode.lean ====
section
/-!
SUPPORT. The fields of a command word and of a transition key, read back from the word the encoder writes.
-/

namespace Sys2Proof

theorem laneCode_lt (p : LaneId) : p.code < 4 := by cases p <;> decide

@[simp] theorem laneOfCode_code (p : LaneId) : LaneId.ofCode p.code = p := by cases p <;> rfl

theorem laneOfCode_mod (n : Nat) : LaneId.ofCode (n % 4) = LaneId.ofCode n := by
  simp [LaneId.ofCode]

/-- A command word is its `op`, `lane` and `rsv` bits above `widthBits` bits of `arg` (R81). -/
theorem commandWord_eq (widthBits op lane arg : Nat) :
    commandWord widthBits op lane arg = (op * 16 + lane * 4) * 2 ^ widthBits + arg := by
  simp only [commandWord, Nat.pow_add, Nat.add_mul]
  ring

/-- The bits above `arg` of an encoded word. -/
theorem commandWord_high {widthBits op lane arg : Nat} (ha : arg < 2 ^ widthBits) :
    commandWord widthBits op lane arg / 2 ^ widthBits = op * 16 + lane * 4 := by
  rw [commandWord_eq, Nat.mul_comm, Nat.mul_add_div (Nat.two_pow_pos _), Nat.div_eq_of_lt ha, Nat.add_zero]

theorem argField_commandWord {widthBits op lane arg : Nat} (ha : arg < 2 ^ widthBits) :
    argField widthBits (commandWord widthBits op lane arg) = arg := by
  rw [argField, commandWord_eq, Nat.mul_comm, Nat.mul_add_mod, Nat.mod_eq_of_lt ha]

theorem op_commandWord {widthBits op lane arg : Nat} (hl : lane < 4) (ha : arg < 2 ^ widthBits) :
    commandWord widthBits op lane arg / 2 ^ (widthBits + 4) = op := by
  rw [Nat.pow_add, ← Nat.div_div_eq_div_mul, commandWord_high ha]
  omega

theorem laneField_commandWord {widthBits op arg : Nat} (p : LaneId) (ha : arg < 2 ^ widthBits) :
    laneField widthBits (commandWord widthBits op p.code arg) = p := by
  have hp := laneCode_lt p
  rw [laneField, Nat.pow_add, ← Nat.div_div_eq_div_mul, commandWord_high ha,
    show (op * 16 + p.code * 4) / 2 ^ 2 = op * 4 + p.code by omega, ← laneOfCode_mod,
    show (op * 4 + p.code) % 4 = p.code by omega, laneOfCode_code]

/-- The operations case by case, the 128 transition keys at once (R83). -/
theorem instr_cases {P : Instr → Prop} (nop : P .nop) (feed : ∀ width, P (.feed width)) (take : ∀ p, P (.take p))
    (reset : ∀ p, P (.reset p)) (reserved4 : P .reserved4) (reserved5 : P .reserved5) (reserved6 : P .reserved6)
    (reserved7 : P .reserved7) (append : ∀ p v, P (.append p v)) (manch : ∀ p raw, P (.manch p raw))
    (pad : ∀ p, P (.pad p)) (align : ∀ p max, P (.align p max)) (revb : ∀ p, P (.revb p)) (revn : ∀ p, P (.revn p))
    (invert : ∀ p, P (.invert p)) (admitPacket : ∀ p, P (.admitPacket p)) (key : ∀ p st c, P (keyInstr p st c)) (i : Instr) :
    P i := by
  have h : ∀ k : Nat, encode 0 i = .key k → P i := fun k h => by
    have e : i = keyInstr (.ofCode (k / 32)) (.ofCode (k / 4)) (.ofCode k) := by
      cases i <;> cases h <;> rfl
    exact e ▸ key _ _ _
  cases i
  case nop => exact nop
  case feed => exact feed _
  case take => exact take _
  case reset => exact reset _
  case reserved4 => exact reserved4
  case reserved5 => exact reserved5
  case reserved6 => exact reserved6
  case reserved7 => exact reserved7
  case append => exact append _ _
  case manch => exact manch _ _
  case pad => exact pad _
  case align => exact align _ _
  case revb => exact revb _
  case revn => exact revn _
  case invert => exact invert _
  case admitPacket => exact admitPacket _
  all_goals exact h _ rfl

end Sys2Proof
end

