-- ==== Sys2Proof/Laws/Driver.lean ====
section
/-!
SUPPORT. What the driver can do with a pulse, said once: `Complete` hands the packet over (R115), a lane-level FEED
ignores, goes on, completes or resets (R111), a transition key runs the lane-level FEED (R83), one step runs what it
fetched.
-/

namespace Sys2Proof.Machine

/-- A configuration that meets R11 gives every lane 7 or 8 bits per byte. -/
theorem configOk_w {cfg : Config} (h : configOk cfg) (p : LaneId) : (cfg.lane p).w = 7 ∨ (cfg.lane p).w = 8 := by
  obtain ⟨h1, h2, h3, h4, -⟩ := h
  cases p
  exacts [h1.2.2.2.2, h2.2.2.2.2, h3.2.2.2.2, h4.2.2.2.2]

/-- The thresholds of a configuration that meets R11 are in order. -/
theorem configOk_order {cfg : Config} (h : configOk cfg) (p : LaneId) :
    (cfg.lane p).tmin < (cfg.lane p).tsplit ∧ (cfg.lane p).tsplit < (cfg.lane p).tmax ∧ (cfg.lane p).tmax ≤ tgap p
      ∧ tgap p < 2 ^ cfg.widthBits := by
  obtain ⟨⟨a1, a2, a3, a4, -⟩, ⟨b1, b2, b3, b4, -⟩, ⟨c1, c2, c3, c4, -⟩, ⟨d1, d2, d3, d4, -⟩, -⟩ := h
  cases p
  exacts [⟨a1, a2, a3, a4⟩, ⟨b1, b2, b3, b4⟩, ⟨c1, c2, c3, c4⟩, ⟨d1, d2, d3, d4⟩]

/-- Every transition key runs the lane-level FEED of its class in its state (R83). -/
theorem exec_keyInstr (p : LaneId) (st : DecState) (c : PulseClass) (s : State) :
    exec (keyInstr p st c) s = transition p st c s := by
  cases p <;> cases st <;> cases c <;> rfl

/-- The lane reset leaves the reset values and the DedupRecord (R302). -/
theorem laneIsReset_reset (l : Lane) : LaneIsReset l l.reset :=
  ⟨fun _ => rfl, rfl, rfl, rfl, rfl, rfl, rfl, rfl, rfl, rfl, rfl, rfl, rfl⟩

theorem bufferOk_reset {w : Nat} (hw : w = 7 ∨ w = 8) (l : Lane) : bufferOk w l.reset :=
  ⟨⟨by simp, by simp; omega, fun _ => rfl⟩, rfl⟩

/-- The post-processing maps every byte of the packet (R115, R138). -/
theorem applyPost_spec {w : Nat} {post : Post} {l : Lane} (h : bufferOk w l) :
    ∃ l', applyPost post l = .ok l' ∧ bufferOk w l' ∧ l'.pos = l.pos ∧ l'.bits = l.bits
      ∧ (∀ j, l'.data.read j = if j < l.pos.toNat then postByte post (l.data.read j) else l.data.read j)
      ∧ OnlyBuffer l l' := by
  cases post with
  | none => exact ⟨l, rfl, h, rfl, rfl, fun j => by simp [postByte], .refl l⟩
  | revb => exact mapCompleted_spec h
  | revn => exact mapCompleted_spec h

/-- `Complete` (R115): PAD, post-processing and ADMIT raise nothing; the packet is held or dropped. -/
theorem completeLane_spec {cfg : Config} {p : LaneId} {now : Nat} {l : Lane}
    (hw : (cfg.lane p).w = 7 ∨ (cfg.lane p).w = 8) (h : bufferOk (cfg.lane p).w l) :
    ∃ l', completeLane cfg p now l = .ok l' ∧ HandedOver cfg p now l l' ∧ bufferOk (cfg.lane p).w l' := by
  obtain ⟨l1, e1, ok1, b1, p1, r1, o1⟩ := pad_spec hw h
  obtain ⟨l2, e2, ok2, p2, b2, r2, o2⟩ := applyPost_spec (post := (cfg.lane p).post) ok1
  have ho := o1.trans o2
  have ok2' := ok2
  obtain ⟨⟨hp25, hbw, hc⟩, hm⟩ := ok2'
  have hpk : l2.packet = completedPacket (cfg.lane p) l := by
    simp only [Lane.packet, Memory.bytes, completedPacket, p2, p1]
    refine List.map_congr_left fun j hj => ?_
    rw [List.mem_range] at hj
    rw [r2, p1, if_pos hj, r1]
  rw [completeLane, e1]
  simp only [Res.bind, e2, handOver, admitLane, if_neg (show ¬ cap < l2.pos.toNat by simp [cap]; omega), hpk, ho.dedup]
  refine ⟨_, rfl, ?_, ?_⟩
  · cases hr : (admitRecord cfg.timeBits (cfg.lane p) (crcOf cfg.crc (completedPacket (cfg.lane p) l)) now l.dedup).1
    · refine ⟨fun h => by simp [hr] at h, fun _ => ?_⟩
      simp only [Bool.false_eq_true, if_false]
      exact laneIsReset_reset _
    · refine ⟨fun _ => ?_, fun h => by simp [hr] at h⟩
      simp only [if_true]
      refine ⟨trivial, hpk, by rw [p2, p1], by rw [b2, b1], trivial, fun j hj => ?_, ?_⟩
      · rw [r2, p1, if_neg (by omega), r1]
      · have hst := ho.state
        conv_rhs => rw [← ho]
        rw [hst, ho.dedup]
  · split
    · exact ⟨⟨hp25, hbw, hc⟩, hm⟩
    · exact bufferOk_reset hw _

/-- Everything a lane-level FEED can do when it faults nowhere (R111). -/
theorem laneFeed_cases {cfg : Config} {p : LaneId} {now : Nat} {c : PulseClass} {l l' : Lane}
    (h : laneFeed cfg p now c l = .ok l') :
    (l.state = .done ∧ l' = l)
      ∨ (l.state ≠ .done ∧ laneStep cfg p c l = .cont l')
      ∨ (l.state ≠ .done ∧ ∃ l1, laneStep cfg p c l = .complete l1 ∧ completeLane cfg p now l1 = .ok l')
      ∨ (l.state ≠ .done ∧ l' = l.reset) := by
  unfold laneFeed at h
  split at h
  · exact .inl ⟨‹_›, by cases h; rfl⟩
  · refine .inr ?_
    rename_i hd
    cases hs : laneStep cfg p c l with
    | cont l1 =>
      rw [hs] at h
      simp only [StepOut.finish, Res.settle] at h
      exact .inl ⟨hd, by cases h; rfl⟩
    | complete l1 =>
      rw [hs] at h
      simp only [StepOut.finish] at h
      cases hc : completeLane cfg p now l1 with
      | ok l2 => rw [hc] at h; exact .inr (.inl ⟨hd, l1, rfl, by rw [hc]; cases h; rfl⟩)
      | fail _ => rw [hc] at h; exact .inr (.inr ⟨hd, by cases h; rfl⟩)
      | fault _ => rw [hc] at h; cases h
    | fail _ => rw [hs] at h; exact .inr (.inr ⟨hd, by cases h; rfl⟩)
    | fault _ => rw [hs] at h; cases h

/-- A FEED that faults on no lane steps every lane by itself (R110, R71). -/
theorem feedLane_ok {width : Nat} {p : LaneId} {s t : State} (h : feedLane width p s = .ok t) :
    ∃ l, laneFeed s.cfg p s.now (classify s.cfg p width) (s.lane p) = .ok l ∧ t = s.setLane p l := by
  unfold feedLane at h
  cases hl : laneFeed s.cfg p s.now (classify s.cfg p width) (s.lane p) with
  | ok l => rw [hl] at h; exact ⟨l, rfl, by cases h; rfl⟩
  | error f => rw [hl] at h; cases h

theorem feedLane_of_ok {width : Nat} {p : LaneId} {s : State} {l : Lane}
    (h : laneFeed s.cfg p s.now (classify s.cfg p width) (s.lane p) = .ok l) :
    feedLane width p s = .ok (s.setLane p l) := by
  unfold feedLane; rw [h]; rfl

/-- FEED when no lane faults: the four lane-level FEEDs and the `avail` bits (R110, R89). -/
theorem execFeed_of_ok {width : Nat} {s : State} {l1 l2 l3 l4 : Lane}
    (h1 : laneFeed s.cfg .sec s.now (classify s.cfg .sec width) s.sec = .ok l1)
    (h2 : laneFeed s.cfg .em s.now (classify s.cfg .em width) s.em = .ok l2)
    (h3 : laneFeed s.cfg .ws s.now (classify s.cfg .ws width) s.ws = .ok l3)
    (h4 : laneFeed s.cfg .sw s.now (classify s.cfg .sw width) s.sw = .ok l4) :
    execFeed width s = .next
      (({ s with sec := l1, em := l2, ws := l3, sw := l4 }).answer
        (.fed ({ s with sec := l1, em := l2, ws := l3, sw := l4 } : State).availBits)) := by
  simp only [execFeed, feedLane, State.lane, h1, Except.map, Except.bind, State.setLane, h2, h3, h4]

/-- Everything FEED can do when it answers (R110). -/
theorem execFeed_next {width : Nat} {s t : State} (h : execFeed width s = .next t) :
    ∃ l1 l2 l3 l4,
      laneFeed s.cfg .sec s.now (classify s.cfg .sec width) s.sec = .ok l1
      ∧ laneFeed s.cfg .em s.now (classify s.cfg .em width) s.em = .ok l2
      ∧ laneFeed s.cfg .ws s.now (classify s.cfg .ws width) s.ws = .ok l3
      ∧ laneFeed s.cfg .sw s.now (classify s.cfg .sw width) s.sw = .ok l4
      ∧ t = ({ s with sec := l1, em := l2, ws := l3, sw := l4 }).answer
          (.fed ({ s with sec := l1, em := l2, ws := l3, sw := l4 } : State).availBits) := by
  cases h1 : laneFeed s.cfg .sec s.now (classify s.cfg .sec width) s.sec with
  | error f => simp [execFeed, feedLane, State.lane, h1, Except.map, Except.bind] at h
  | ok l1 =>
    cases h2 : laneFeed s.cfg .em s.now (classify s.cfg .em width) s.em with
    | error f => simp [execFeed, feedLane, State.lane, h1, h2, Except.map, Except.bind, State.setLane] at h
    | ok l2 =>
      cases h3 : laneFeed s.cfg .ws s.now (classify s.cfg .ws width) s.ws with
      | error f => simp [execFeed, feedLane, State.lane, h1, h2, h3, Except.map, Except.bind, State.setLane] at h
      | ok l3 =>
        cases h4 : laneFeed s.cfg .sw s.now (classify s.cfg .sw width) s.sw with
        | error f =>
          simp [execFeed, feedLane, State.lane, h1, h2, h3, h4, Except.map, Except.bind, State.setLane] at h
        | ok l4 =>
          rw [execFeed_of_ok h1 h2 h3 h4] at h
          exact ⟨l1, l2, l3, l4, rfl, rfl, rfl, rfl, by cases h; rfl⟩

/-- A transition key whose state is the lane's (R83, R111). -/
theorem transition_of_ok {p : LaneId} {st : DecState} {c : PulseClass} {s : State} {l : Lane}
    (hst : (s.lane p).state = st) (h : laneFeed s.cfg p s.now c (s.lane p) = .ok l) :
    transition p st c s = .next ((s.setLane p l).answer (.laneFed (l.state == .done))) := by
  subst hst
  rw [transition, show { s.lane p with state := (s.lane p).state } = s.lane p from rfl, h]

/-- A key whose step fails: the lane reset (R114). -/
theorem key_fail {p : LaneId} {st : DecState} {c : PulseClass} {s : State} {cause : FailCause}
    (hst : (s.lane p).state = st) (hd : st ≠ .done) (h : laneStep s.cfg p c (s.lane p) = .fail cause) :
    ∃ t, exec (keyInstr p st c) s = .next t ∧ OnlyLane p s t ∧ t.reply = .laneFed false
      ∧ LaneIsReset (s.lane p) (t.lane p) := by
  have hf : laneFeed s.cfg p s.now c (s.lane p) = .ok (s.lane p).reset := by
    unfold laneFeed; rw [if_neg (hst ▸ hd), h]; rfl
  have e := (exec_keyInstr p st c s).trans (transition_of_ok hst hf)
  exact ⟨_, e, onlyLane_setLane_answer _ _ _ _, rfl,
    by simpa using laneIsReset_reset _⟩

/-- A key whose step goes on (R111). -/
theorem key_cont {p : LaneId} {st : DecState} {c : PulseClass} {s : State} {l' : Lane}
    (hst : (s.lane p).state = st) (hd : st ≠ .done) (h : laneStep s.cfg p c (s.lane p) = .cont l')
    (hd' : l'.state ≠ .done) :
    ∃ t, exec (keyInstr p st c) s = .next t ∧ OnlyLane p s t ∧ t.reply = .laneFed false ∧ t.lane p = l' := by
  have hf : laneFeed s.cfg p s.now c (s.lane p) = .ok l' := by
    unfold laneFeed; rw [if_neg (hst ▸ hd), h]; rfl
  have e := (exec_keyInstr p st c s).trans (transition_of_ok hst hf)
  exact ⟨_, e, onlyLane_setLane_answer _ _ _ _, by simp [hd'], by simp⟩

/-- A key whose step completes: the packet is handed over (R115). -/
theorem key_complete {p : LaneId} {st : DecState} {c : PulseClass} {s : State} {l1 : Lane} (hcfg : configOk s.cfg)
    (hst : (s.lane p).state = st) (hd : st ≠ .done) (h : laneStep s.cfg p c (s.lane p) = .complete l1)
    (hb : bufferOk (s.cfg.lane p).w l1) :
    ∃ t, exec (keyInstr p st c) s = .next t ∧ OnlyLane p s t
      ∧ t.reply = .laneFed (decide ((t.lane p).state = .done)) ∧ HandedOver s.cfg p s.now l1 (t.lane p) := by
  obtain ⟨l', e, ho, -⟩ := completeLane_spec (now := s.now) (configOk_w hcfg p) hb
  have hf : laneFeed s.cfg p s.now c (s.lane p) = .ok l' := by
    unfold laneFeed; rw [if_neg (hst ▸ hd), h]; simp only [StepOut.finish, e, Res.settle]
  have e := (exec_keyInstr p st c s).trans (transition_of_ok hst hf)
  exact ⟨_, e, onlyLane_setLane_answer _ _ _ _,
    by simp [Bool.beq_eq_decide_eq], by simpa using ho⟩

/-- A micro-operation by itself that raises nothing, and one that raises a Fail (log 9). -/
theorem micro_ok {p : LaneId} {f : Lane → Res Lane} {s : State} {l : Lane} (h : f (s.lane p) = .ok l) :
    s.micro p f = .next ((s.setLane p l).answer (.micro false)) := by
  unfold State.micro; rw [h]

theorem micro_fail {p : LaneId} {f : Lane → Res Lane} {s : State} {c : FailCause} (h : f (s.lane p) = .fail c) :
    s.micro p f = .next ((s.setLane p (s.lane p).reset).answer (.micro true)) := by
  unfold State.micro; rw [h]; rfl

/-- Everything a micro-operation by itself can do (log 9). -/
theorem micro_next {s t : State} {p : LaneId} {f : Lane → Res Lane} (h : s.micro p f = .next t) :
    (∃ l, f (s.lane p) = .ok l ∧ t = (s.setLane p l).answer (.micro false))
      ∨ (∃ c, f (s.lane p) = .fail c ∧ t = (s.setLane p (s.lane p).reset).answer (.micro true)) := by
  unfold State.micro at h
  cases hf : f (s.lane p) with
  | ok l => rw [hf] at h; exact .inl ⟨l, rfl, by cases h; rfl⟩
  | fail c => rw [hf] at h; exact .inr ⟨c, rfl, by cases h; rfl⟩
  | fault _ => rw [hf] at h; cases h

/-- Everything one step can do: the configuration is legal and what the ports present is run (R70). -/
theorem step_next {s t : State} (h : step s = .next t) :
    configOk s.cfg ∧ runFetched (fetch s) s.advance = .next t := by
  unfold step stepOnce at h
  split at h
  · exact ⟨‹_›, h⟩
  · cases h

end Sys2Proof.Machine
end

