-- ==== Sys2Proof/Laws/Dedup.lean ====
section
/-!
SUPPORT. Only ADMIT writes the DedupRecord (spec/10_state.md R44): every accumulator operation and every
state-machine step keeps it, in every state of the lane, one that breaks the invariants included.
-/

namespace Sys2Proof.Machine

/-- A result that leaves a lane leaves the DedupRecord of `l` in it. -/
def Res.KeepsDedup (l : Lane) : Res Lane → Prop
  | .ok l' => l'.dedup = l.dedup
  | .fail _ | .fault _ => True

/-- An outcome that leaves a lane leaves the DedupRecord of `l` in it. -/
def StepOut.KeepsDedup (l : Lane) : StepOut → Prop
  | .cont l' | .complete l' => l'.dedup = l.dedup
  | .fail _ | .fault _ => True

theorem Res.KeepsDedup.bind {l : Lane} {r : Res Lane} {k : Lane → Res Lane} (h : r.KeepsDedup l)
    (hk : ∀ l', (k l').KeepsDedup l') : (r.bind k).KeepsDedup l := by
  cases r with
  | fail _ => trivial
  | fault _ => trivial
  | ok l1 =>
    have h2 := hk l1
    simp only [Res.bind]
    cases hl : k l1 with
    | ok l2 => rw [hl] at h2; exact h2.trans h
    | fail _ => trivial
    | fault _ => trivial

theorem Res.KeepsDedup.inStep {l : Lane} {r : Res Lane} {k : Lane → StepOut} (h : r.KeepsDedup l)
    (hk : ∀ l', l'.dedup = l.dedup → (k l').KeepsDedup l) : (r.inStep k).KeepsDedup l := by
  cases r with
  | ok l' => exact hk l' h
  | fail _ => trivial
  | fault _ => trivial

theorem append_keepsDedup (w : Nat) (v : Bool) (l : Lane) : (append w v l).KeepsDedup l := by
  unfold append
  split
  · trivial
  · split
    · trivial
    · simp only [Res.KeepsDedup, roll]; split <;> rfl

theorem manch_keepsDedup (w : Nat) (raw : Bool) (l : Lane) : (manch w raw l).KeepsDedup l :=
  append_keepsDedup w _ { l with flip := flipNext l.flip raw }

theorem padLoop_keepsDedup (w n : Nat) (l : Lane) : (padLoop w n l).KeepsDedup l := by
  induction n generalizing l with
  | zero => rfl
  | succ n ih =>
    unfold padLoop
    split
    · rfl
    · exact (append_keepsDedup w false l).bind ih

theorem pad_keepsDedup (w : Nat) (l : Lane) : (pad w l).KeepsDedup l := padLoop_keepsDedup w 15 l

theorem align_keepsDedup (w : Nat) (max : BitVec 5) (l : Lane) : (align w max l).KeepsDedup l := by
  refine (pad_keepsDedup w l).bind fun l' => ?_
  split
  · split <;> trivial
  · rfl

theorem mapCompleted_keepsDedup (f : Byte → Byte) (l : Lane) : (mapCompleted f l).KeepsDedup l := by
  unfold mapCompleted; split <;> trivial

theorem firstHalf_keepsDedup (h : Half) (l : Lane) : (firstHalf h l).KeepsDedup l := by cases h <;> rfl

theorem stepSec_keepsDedup (w : Nat) (c : PulseClass) (l : Lane) : (stepSec w c l).KeepsDedup l := by
  have pair : ∀ a b, (secSecondHalf w a b l).KeepsDedup l := fun a b =>
    (append_keepsDedup w _ l).inStep fun l' h => by split <;> exact h
  have data : ∀ h, (secData w h l).KeepsDedup l := fun h => by
    unfold secData
    split
    all_goals first | exact firstHalf_keepsDedup h l | exact pair _ _ | trivial
  cases c with
  | short => exact data _
  | long => exact data _
  | outOfRange => trivial
  | gap =>
    simp only [stepSec, secGap]
    split
    · exact (align_keepsDedup w secKeep l).inStep fun l' h => by split <;> first | exact h | trivial
    · trivial

theorem stepEm_keepsDedup (w : Nat) (c : PulseClass) (l : Lane) : (stepEm w c l).KeepsDedup l := by
  have data : ∀ h, (emData w h l).KeepsDedup l := fun h => by
    unfold emData
    split
    case h_1 => cases h <;> simp only [emWake] <;> first | trivial | (split <;> rfl)
    case h_2 => cases h <;> trivial
    case h_3 => exact (append_keepsDedup w _ l).inStep fun _ h => h
    all_goals trivial
  cases c with
  | short => exact data _
  | long => exact data _
  | outOfRange => trivial
  | gap => simp only [stepEm, emGap]; split <;> trivial

theorem stepWs_keepsDedup (w : Nat) (marker : Bool) (c : PulseClass) (l : Lane) :
    (stepWs w marker c l).KeepsDedup l := by
  have fin : ∀ l', l'.dedup = l.dedup → (wsEndBit l').KeepsDedup l := fun l' h => by
    unfold wsEndBit; simp only; split <;> exact h
  have bit : ∀ v, (wsBit w marker v l).KeepsDedup l := fun v => by
    unfold wsBit
    simp only
    split
    · split
      · trivial
      · exact fin _ rfl
    · refine Res.KeepsDedup.inStep (append_keepsDedup w v { l with nbits := l.nbits + 1 }) fun l' h => ?_
      unfold wsCapture
      split <;> exact fin _ h
  have data : ∀ h, (wsData w marker h l).KeepsDedup l := fun h => by
    unfold wsData
    split
    case h_1 => unfold wsRun; repeat (split <;> try trivial)
    case h_2 => cases h <;> trivial
    case h_3 => exact firstHalf_keepsDedup h l
    case h_4 => cases h <;> first | exact bit _ | trivial
    case h_5 => cases h <;> first | exact bit _ | trivial
    all_goals trivial
  cases c with
  | short => exact data _
  | long => exact data _
  | outOfRange => trivial
  | gap => simp only [stepWs, wsGap]; split <;> trivial

theorem stepSw_keepsDedup (w : Nat) (c : PulseClass) (l : Lane) : (stepSw w c l).KeepsDedup l := by
  have fin : ∀ l', l'.dedup = l.dedup → (swEndBit l').KeepsDedup l := fun l' h => by
    unfold swEndBit; simp only; split <;> exact h
  have bit : ∀ v, (swBit w v l).KeepsDedup l := fun v => by
    unfold swBit
    simp only
    split
    · split
      · trivial
      · exact fin _ rfl
    · exact Res.KeepsDedup.inStep (append_keepsDedup w v { l with nbits := l.nbits + 1 }) fun l' h => fin _ h
  have data : ∀ h, (swData w h l).KeepsDedup l := fun h => by
    unfold swData
    split
    case h_1 => cases h <;> simp only [swRunIn] <;> first | rfl | (split <;> trivial)
    case h_2 => exact firstHalf_keepsDedup h l
    case h_3 => cases h <;> first | exact bit _ | trivial
    case h_4 => cases h <;> first | exact bit _ | trivial
    all_goals trivial
  cases c with
  | short => exact data _
  | long => exact data _
  | outOfRange => trivial
  | gap => simp only [stepSw, swGap]; split <;> trivial

/-- A step of any lane keeps the DedupRecord, in every state of the lane (R44). -/
theorem laneStep_keepsDedup (cfg : Config) (p : LaneId) (c : PulseClass) (l : Lane) :
    (laneStep cfg p c l).KeepsDedup l := by
  cases p
  exacts [stepSec_keepsDedup _ c l, stepEm_keepsDedup _ c l, stepWs_keepsDedup _ _ c l, stepSw_keepsDedup _ c l]

end Sys2Proof.Machine
end

