-- ==== Sys2Proof/Laws/Fsm.lean ====
section
/-!
SUPPORT. What a step of a protocol state machine can do (spec/43_fsm_sec.md to 46_fsm_sw.md), said once per lane: a
lane whose invariant holds goes on with it, completes with a packet, or fails; it never faults. From it, what a
lane-level FEED keeps.
-/

namespace Sys2Proof.Machine

/-- The step goes on with a lane that has `P`, completes with one that has `Q`, or fails. -/
def StepOut.All (P Q : Lane → Prop) : StepOut → Prop
  | .cont l => P l
  | .complete l => Q l
  | .fail _ => True
  | .fault _ => False

theorem StepOut.All.mono {P Q P' Q' : Lane → Prop} (hP : ∀ l, P l → P' l) (hQ : ∀ l, Q l → Q' l) {o : StepOut}
    (h : o.All P Q) : o.All P' Q' := by
  cases o
  exacts [hP _ h, hQ _ h, trivial, h]

theorem StepOut.All.of_cont {P Q : Lane → Prop} {o : StepOut} {l : Lane} (h : o.All P Q) (e : o = .cont l) : P l := by
  subst e; exact h

theorem StepOut.All.of_complete {P Q : Lane → Prop} {o : StepOut} {l : Lane} (h : o.All P Q) (e : o = .complete l) :
    Q l := by subst e; exact h

/-- An APPEND inside a step overflows, or the step goes on after it. -/
theorem append_inStep {w : Nat} {v : Bool} {l : Lane} {k : Lane → StepOut} {P Q : Lane → Prop}
    (hw : w = 7 ∨ w = 8) (h : bufferOk w l)
    (hk : ∀ l', bufferOk w l' → AppendedBit w v l l' → OnlyBuffer l l' → (k l').All P Q) :
    ((append w v l).inStep k).All P Q := by
  rcases Nat.lt_or_ge l.pos.toNat 25 with hp | hp
  · obtain ⟨l', e, h1, h2, h3⟩ := append_spec (v := v) hw h hp
    rw [e]; exact hk l' h1 h2 h3
  · rw [append_full (by have := h.1.1; omega)]; trivial

theorem satRun_toNat (r : BitVec 5) : (satRun r).toNat = min (r.toNat + 1) 21 := by
  simp only [satRun, runTop, BitVec.toNat_ofNat]
  omega

theorem satRepeats_toNat (r : BitVec 8) : (satRepeats r).toNat = min (r.toNat + 1) 255 := by
  simp only [satRepeats, BitVec.toNat_ofNat]
  omega

/-- The registers outside the buffer, by OnlyBuffer. -/
theorem OnlyBuffer.regs {l l' : Lane} (h : OnlyBuffer l l') :
    l'.flip = l.flip ∧ l'.state = l.state ∧ l'.run = l.run ∧ l'.prev = l.prev ∧ l'.nbits = l.nbits ∧ l'.par = l.par
      ∧ l'.ext = l.ext ∧ l'.mtype = l.mtype ∧ l'.mvalid = l.mvalid ∧ l'.dedup = l.dedup := by
  rw [← h]; simp

/-! ### Buffers: for any contents of the other registers -/

/-- A step keeps the buffer in order and the DedupRecord, and does not enter Done. -/
abbrev StepKeepsBuffer (w : Nat) (l l' : Lane) : Prop :=
  bufferOk w l' ∧ l'.dedup = l.dedup ∧ (l.state ≠ .done → l'.state ≠ .done)

theorem firstHalf_keepsBuffer {w : Nat} {h : Half} {l : Lane} (hl : bufferOk w l) :
    (firstHalf h l).All (StepKeepsBuffer w l) (StepKeepsBuffer w l) := by
  cases h <;> exact ⟨hl, rfl, fun _ => nofun⟩

theorem stepSec_keepsBuffer {w : Nat} {c : PulseClass} {l : Lane} (hw : w = 7 ∨ w = 8) (hl : bufferOk w l) :
    (stepSec w c l).All (StepKeepsBuffer w l) (StepKeepsBuffer w l) := by
  have pair : ∀ a b, (secSecondHalf w a b l).All (StepKeepsBuffer w l) (StepKeepsBuffer w l) := fun a b => by
    refine append_inStep hw hl fun l' h1 _ h3 => ?_
    split
    · exact ⟨(invert_spec (l := { l' with state := .confirmed }) h1).1, by simp [invert, h3.dedup], fun _ => nofun⟩
    · exact ⟨h1, h3.dedup, fun _ => nofun⟩
  have data : ∀ h, (secData w h l).All (StepKeepsBuffer w l) (StepKeepsBuffer w l) := fun h => by
    unfold secData
    split
    all_goals first | exact firstHalf_keepsBuffer hl | exact pair _ _ | trivial
  cases c with
  | short => exact data _
  | long => exact data _
  | outOfRange => trivial
  | gap =>
    simp only [stepSec, secGap]
    split
    · obtain ⟨l', e, h1, -, -, -, -, h3⟩ := align_spec (max := secKeep) hw hl
      rw [e]
      simp only [Res.inStep]
      split
      · exact ⟨h1, h3.dedup, fun h => by rwa [h3.state]⟩
      · trivial
    · trivial

theorem stepEm_keepsBuffer {w : Nat} {c : PulseClass} {l : Lane} (hw : w = 7 ∨ w = 8) (hl : bufferOk w l) :
    (stepEm w c l).All (StepKeepsBuffer w l) (StepKeepsBuffer w l) := by
  have data : ∀ h, (emData w h l).All (StepKeepsBuffer w l) (StepKeepsBuffer w l) := fun h => by
    unfold emData
    split
    case h_1 =>
      cases h with
      | long => trivial
      | short =>
        simp only [emWake]
        split
        · exact ⟨hl, rfl, fun _ => nofun⟩
        · exact ⟨hl, rfl, id⟩
    case h_2 =>
      cases h with
      | long => trivial
      | short => exact ⟨hl, rfl, fun _ => nofun⟩
    case h_3 => exact append_inStep hw hl fun l' h1 _ h3 => ⟨h1, h3.dedup, fun h => by rwa [h3.state]⟩
    all_goals trivial
  cases c with
  | short => exact data _
  | long => exact data _
  | outOfRange => trivial
  | gap =>
    simp only [stepEm, emGap]
    split
    · exact ⟨hl, rfl, id⟩
    · trivial

theorem stepWs_keepsBuffer {w : Nat} {marker : Bool} {c : PulseClass} {l : Lane} (hw : w = 7 ∨ w = 8)
    (hl : bufferOk w l) : (stepWs w marker c l).All (StepKeepsBuffer w l) (StepKeepsBuffer w l) := by
  have fin : ∀ l', bufferOk w l' → l'.dedup = l.dedup →
      (wsEndBit l').All (StepKeepsBuffer w l) (StepKeepsBuffer w l) := fun l' h1 h2 => by
    unfold wsEndBit
    simp only
    split <;> exact ⟨h1, h2, fun _ => nofun⟩
  have bit : ∀ v, (wsBit w marker v l).All (StepKeepsBuffer w l) (StepKeepsBuffer w l) := fun v => by
    unfold wsBit
    simp only
    split
    · split
      · trivial
      · exact fin _ hl rfl
    · refine append_inStep (l := { l with nbits := l.nbits + 1 }) hw hl fun l' h1 _ h3 => ?_
      unfold wsCapture
      split <;> exact fin _ h1 h3.dedup
  have data : ∀ h, (wsData w marker h l).All (StepKeepsBuffer w l) (StepKeepsBuffer w l) := fun h => by
    unfold wsData
    split
    case h_1 =>
      unfold wsRun
      split
      · exact ⟨hl, rfl, id⟩
      · split
        · exact ⟨hl, rfl, id⟩
        · split
          · exact ⟨hl, rfl, fun _ => nofun⟩
          · trivial
    case h_2 =>
      cases h with
      | short => trivial
      | long => exact ⟨hl, rfl, fun _ => nofun⟩
    case h_3 => exact firstHalf_keepsBuffer hl
    case h_4 => cases h <;> first | exact bit _ | trivial
    case h_5 => cases h <;> first | exact bit _ | trivial
    all_goals trivial
  cases c with
  | short => exact data _
  | long => exact data _
  | outOfRange => trivial
  | gap =>
    simp only [stepWs, wsGap]
    split
    · exact ⟨hl, rfl, id⟩
    · trivial

theorem stepSw_keepsBuffer {w : Nat} {c : PulseClass} {l : Lane} (hw : w = 7 ∨ w = 8) (hl : bufferOk w l) :
    (stepSw w c l).All (StepKeepsBuffer w l) (StepKeepsBuffer w l) := by
  have fin : ∀ l', bufferOk w l' → l'.dedup = l.dedup →
      (swEndBit l').All (StepKeepsBuffer w l) (StepKeepsBuffer w l) := fun l' h1 h2 => by
    unfold swEndBit
    simp only
    split <;> exact ⟨h1, h2, fun _ => nofun⟩
  have bit : ∀ v, (swBit w v l).All (StepKeepsBuffer w l) (StepKeepsBuffer w l) := fun v => by
    unfold swBit
    simp only
    split
    · split
      · trivial
      · exact fin _ hl rfl
    · exact append_inStep (l := { l with nbits := l.nbits + 1 }) hw hl fun l' h1 _ h3 => fin _ h1 h3.dedup
  have data : ∀ h, (swData w h l).All (StepKeepsBuffer w l) (StepKeepsBuffer w l) := fun h => by
    unfold swData
    split
    case h_1 =>
      cases h with
      | short => exact ⟨hl, rfl, id⟩
      | long =>
        simp only [swRunIn]
        split
        · exact ⟨hl, rfl, fun _ => nofun⟩
        · trivial
    case h_2 => exact firstHalf_keepsBuffer hl
    case h_3 => cases h <;> first | exact bit _ | trivial
    case h_4 => cases h <;> first | exact bit _ | trivial
    all_goals trivial
  cases c with
  | short => exact data _
  | long => exact data _
  | outOfRange => trivial
  | gap =>
    simp only [stepSw, swGap]
    split
    · exact ⟨hl, rfl, id⟩
    · trivial

/-- A step of any lane keeps the buffer in order and the DedupRecord, does not enter Done, and never faults. -/
theorem laneStep_keepsBuffer {cfg : Config} {p : LaneId} {c : PulseClass} {l : Lane} (hcfg : configOk cfg)
    (hl : bufferOk (cfg.lane p).w l) :
    (laneStep cfg p c l).All (StepKeepsBuffer (cfg.lane p).w l) (StepKeepsBuffer (cfg.lane p).w l) := by
  have hw := configOk_w hcfg p
  cases p
  exacts [stepSec_keepsBuffer hw hl, stepEm_keepsBuffer hw hl, stepWs_keepsBuffer hw hl, stepSw_keepsBuffer hw hl]

/-- A lane-level FEED always answers, and keeps the buffer in order (R41, R111). -/
theorem laneFeed_bufferOk {cfg : Config} {p : LaneId} {now : Nat} {c : PulseClass} {l : Lane} (hcfg : configOk cfg)
    (hl : bufferOk (cfg.lane p).w l) :
    ∃ l', laneFeed cfg p now c l = .ok l' ∧ bufferOk (cfg.lane p).w l' := by
  have hw := configOk_w hcfg p
  unfold laneFeed
  split
  · exact ⟨l, rfl, hl⟩
  · have hs := laneStep_keepsBuffer (c := c) hcfg hl
    cases hst : laneStep cfg p c l with
    | cont l1 => rw [hst] at hs; exact ⟨l1, rfl, hs.1⟩
    | complete l1 =>
      rw [hst] at hs
      obtain ⟨l', e, -, ok⟩ := completeLane_spec (now := now) hw hs.1
      exact ⟨l', by simp only [StepOut.finish, e, Res.settle], ok⟩
    | fail _ => exact ⟨l.reset, rfl, bufferOk_reset hw l⟩
    | fault _ => rw [hst] at hs; exact hs.elim

end Sys2Proof.Machine
end

