-- ==== Sys2Proof/Laws/Invariant.lean ====
section
/-!
SUPPORT. A step of a lane that has its invariant goes on with it, or completes with a lane whose packet the driver can
take (spec/10_state.md R41).
-/

namespace Sys2Proof.Machine

/-- What a step that completes leaves of the invariant: the driver pads next, and then sets Done or resets. -/
abbrev completedOk (cfg : Config) (p : LaneId) (l : Lane) : Prop :=
  bufferOk (cfg.lane p).w l ∧ 1 ≤ paddedLen l ∧ l.run.toNat ≤ 21 ∧ l.ext = false ∧ unusedOk p l
    ∧ l.dedup.lastTime < 2 ^ cfg.timeBits

/-- With a bit collected there is a byte to hand over. -/
theorem one_le_paddedLen {w : Nat} {l : Lane} (h : 0 < collected w l) : 1 ≤ paddedLen l := by
  unfold paddedLen
  split
  · rename_i hb
    simp only [collected, hb] at h
    rcases Nat.eq_zero_or_pos l.pos.toNat with h0 | h0
    · simp [h0] at h
    · omega
  · omega

/-- A buffer in order holds at most 25 bytes of bits. -/
theorem collected_le {w : Nat} {l : Lane} (hw : w = 7 ∨ w = 8) (h : bufferOk w l) : collected w l ≤ 200 := by
  obtain ⟨⟨h1, h2, h3⟩, -⟩ := h
  unfold collected
  by_cases hp : l.pos.toNat = 25
  · have hb := h3 hp
    rw [hp, hb]
    rcases hw with rfl | rfl <;> simp
  · rcases hw with rfl | rfl <;> omega

theorem toNat_succ {b : BitVec 8} (h : b.toNat < 255) : (b + 1).toNat = b.toNat + 1 := by
  rw [BitVec.toNat_add]; simp; omega

theorem secStep_inv {cfg : Config} {c : PulseClass} {l : Lane} (hcfg : configOk cfg) (h : laneInv cfg .sec l) :
    (laneStep cfg .sec c l).All (laneInv cfg .sec) (completedOk cfg .sec) := by
  obtain ⟨hb, ⟨hin, hdone, hrun, hext⟩, hun, -, ht⟩ := h
  have hw := configOk_w hcfg .sec
  have first : ∀ h, (firstHalf h l).All (laneInv cfg .sec) (completedOk cfg .sec) := fun h => by
    cases h <;> exact ⟨hb, ⟨rfl, nofun, hrun, hext⟩, hun, ⟨nofun, nofun⟩, ht⟩
  have pair : ∀ a b, (secSecondHalf (cfg.lane .sec).w a b l).All (laneInv cfg .sec) (completedOk cfg .sec) := fun a b => by
    refine append_inStep hw hb fun l' h1 _ h3 => ?_
    obtain ⟨r1, r2, r3, r4, r5, r6, r7, r8, r9, r10⟩ := h3.regs
    have hun' : unusedOk .sec { l' with state := .confirmed } := by
      simpa [unusedOk, r1, r3, r4, r5, r6, r8, r9] using hun
    split
    · have hi := invert_spec (l := { l' with state := .confirmed }) h1
      exact ⟨hi.1, ⟨rfl, nofun, by simpa [invert, r3] using hrun, by simpa [invert, r7] using hext⟩, hun',
        ⟨nofun, nofun⟩, by simpa [invert, r10] using ht⟩
    · exact ⟨h1, ⟨rfl, nofun, by simpa [r3] using hrun, by simpa [r7] using hext⟩, hun', ⟨nofun, nofun⟩,
        by simpa [r10] using ht⟩
  have data : ∀ h, (secData (cfg.lane .sec).w h l).All (laneInv cfg .sec) (completedOk cfg .sec) := fun h => by
    unfold secData
    split
    all_goals first | exact first _ | exact pair _ _ | trivial
  cases c with
  | short => exact data _
  | long => exact data _
  | outOfRange => trivial
  | gap =>
    simp only [laneStep, stepSec, secGap]
    split
    · rename_i hc
      obtain ⟨l', e, h1, hb0, hp, -, -, h3⟩ := align_spec (max := secKeep) hw hb
      obtain ⟨r1, r2, r3, r4, r5, r6, r7, r8, r9, r10⟩ := h3.regs
      rw [e]
      simp only [Res.inStep]
      split
      · refine ⟨h1, ?_, by simpa [r3] using hrun, by simpa [r7] using hext, ?_, by simpa [r10] using ht⟩
        · have h36 : 0 < collected (cfg.lane .sec).w l := by simp only [secMinBits] at hc; omega
          have := one_le_paddedLen h36
          rw [paddedLen, if_pos hb0, hp, alignedLen]
          split
          · decide
          · omega
        · simpa [unusedOk, r1, r3, r4, r5, r6, r8, r9] using hun
      · trivial
    · trivial

theorem emStep_inv {cfg : Config} {c : PulseClass} {l : Lane} (hcfg : configOk cfg) (h : laneInv cfg .em l) :
    (laneStep cfg .em c l).All (laneInv cfg .em) (completedOk cfg .em) := by
  obtain ⟨hb, ⟨hin, hdone, hrun, hext⟩, hun, -, ht⟩ := h
  have hw := configOk_w hcfg .em
  have data : ∀ h, (emData (cfg.lane .em).w h l).All (laneInv cfg .em) (completedOk cfg .em) := fun h => by
    unfold emData
    split
    case h_1 hst =>
      cases h with
      | long => trivial
      | short =>
        have hr : (satRun l.run).toNat ≤ 21 := by rw [satRun_toNat]; omega
        simp only [emWake]
        split
        · exact ⟨hb, ⟨rfl, nofun, hr, hext⟩, by simpa [unusedOk] using hun, ⟨nofun, nofun⟩, ht⟩
        · exact ⟨hb, ⟨hin, hdone, hr, hext⟩, by simpa [unusedOk] using hun, ⟨nofun, nofun⟩, ht⟩
    case h_2 =>
      cases h with
      | long => trivial
      | short => exact ⟨hb, ⟨rfl, nofun, hrun, hext⟩, hun, ⟨nofun, nofun⟩, ht⟩
    case h_3 hst =>
      refine append_inStep hw hb fun l' h1 _ h3 => ?_
      obtain ⟨r1, r2, r3, r4, r5, r6, r7, r8, r9, r10⟩ := h3.regs
      exact ⟨h1, ⟨by simpa [r2] using hin, by simp [r2, hst], by simpa [r3] using hrun, by simpa [r7] using hext⟩,
        by simpa [unusedOk, r1, r3, r4, r5, r6, r8, r9] using hun, ⟨nofun, nofun⟩, by simpa [r10] using ht⟩
    all_goals trivial
  cases c with
  | short => exact data _
  | long => exact data _
  | outOfRange => trivial
  | gap =>
    simp only [laneStep, stepEm, emGap]
    split
    · rename_i hc
      simp only [emMinBytes] at hc
      exact ⟨hb, by rw [paddedLen]; omega, hrun, hext, hun, ht⟩
    · trivial

theorem wsStep_inv {cfg : Config} {c : PulseClass} {l : Lane} (hcfg : configOk cfg) (h : laneInv cfg .ws l)
    (hd : l.state ≠ .done) : (laneStep cfg .ws c l).All (laneInv cfg .ws) (completedOk cfg .ws) := by
  obtain ⟨hb, ⟨hin, hdone, hrun, hext⟩, hun, ⟨hcnt, -⟩, ht⟩ := h
  have hw := configOk_w hcfg .ws
  replace hcnt := hcnt rfl hd
  have hn : l.nbits.toNat < 255 := by
    have h200 := collected_le hw hb
    have := l.nbits.isLt
    omega
  have fin : ∀ l' : Lane, bufferOk (cfg.lane .ws).w l' → l'.run.toNat ≤ 21 → l'.ext = false → unusedOk .ws l' →
      l'.dedup.lastTime < 2 ^ cfg.timeBits →
      collected (cfg.lane .ws).w l' = l'.nbits.toNat - l'.nbits.toNat / 5 → 0 < l'.nbits.toNat →
      (wsEndBit l').All (laneInv cfg .ws) (completedOk cfg .ws) := fun l' h1 h2 h3 h4 h5 h6 h7 => by
    unfold wsEndBit
    simp only
    split
    · refine ⟨h1, one_le_paddedLen (w := (cfg.lane .ws).w) ?_, h2, h3, h4, h5⟩
      show 0 < collected _ l'
      omega
    · exact ⟨h1, ⟨rfl, nofun, h2, h3⟩, h4, ⟨fun _ _ => h6, nofun⟩, h5⟩
  have bit : ∀ v, (wsBit (cfg.lane .ws).w cfg.wsMarker v l).All (laneInv cfg .ws) (completedOk cfg .ws) := fun v => by
    unfold wsBit
    simp only
    split
    · rename_i hm
      simp only [isMarkerBit, wsGroup, toNat_succ hn, beq_iff_eq] at hm
      split
      · trivial
      · refine fin _ hb hrun hext (by simpa [unusedOk] using hun) ht ?_ ?_
        · rw [toNat_succ hn]
          show collected _ l = _
          omega
        · simp only [toNat_succ hn]; omega
    · rename_i hm
      simp only [isMarkerBit, wsGroup, toNat_succ hn, beq_iff_eq] at hm
      refine append_inStep (l := { l with nbits := l.nbits + 1 }) hw hb fun l' h1 h2 h3 => ?_
      obtain ⟨r1, r2, r3, r4, r5, r6, r7, r8, r9, r10⟩ := h3.regs
      have hc := h2.collected
      have hc' : collected (cfg.lane .ws).w { l with nbits := l.nbits + 1 } = collected (cfg.lane .ws).w l := rfl
      rw [hc'] at hc
      unfold wsCapture
      have hr : l'.run.toNat ≤ 21 := by simpa [r3] using hrun
      have he : l'.ext = false := by simpa [r7] using hext
      have hu : ∀ a b, unusedOk .ws { l' with mtype := a, mvalid := b } := fun a b => by
        simpa [unusedOk, r1, r6] using hun
      have ht' : l'.dedup.lastTime < 2 ^ cfg.timeBits := by simpa [r10] using ht
      have hn5 : l'.nbits.toNat = l.nbits.toNat + 1 := by rw [r5, toNat_succ hn]
      have hc2 : collected (cfg.lane .ws).w l' = l'.nbits.toNat - l'.nbits.toNat / 5 := by omega
      split
      · exact fin _ h1 hr he (hu _ _) ht' hc2 (by simp only; omega)
      · exact fin _ h1 hr he (hu _ _) ht' hc2 (by omega)
  have data : ∀ h, (wsData (cfg.lane .ws).w cfg.wsMarker h l).All (laneInv cfg .ws) (completedOk cfg .ws) := fun h => by
    have hcz : ∀ st, st ≠ .done → countOk (cfg.lane .ws).w .ws { l with state := st } :=
      fun _ _ => ⟨fun _ _ => hcnt, nofun⟩
    unfold wsData
    split
    case h_1 hst =>
      unfold wsRun
      have hst' : l.state = .done → False := fun h => hd h
      split
      · exact ⟨hb, ⟨hin, fun h => (hst' h).elim, (by decide : (1 : BitVec 5).toNat ≤ 21), hext⟩,
          by simpa [unusedOk] using hun, ⟨fun _ _ => hcnt, nofun⟩, ht⟩
      · split
        · exact ⟨hb, ⟨hin, fun h => (hst' h).elim, by simp only [satRun_toNat]; omega, hext⟩,
            by simpa [unusedOk] using hun, ⟨fun _ _ => hcnt, nofun⟩, ht⟩
        · split
          · exact ⟨hb, ⟨rfl, nofun, hrun, hext⟩, hun, ⟨fun _ _ => hcnt, nofun⟩, ht⟩
          · trivial
    case h_2 =>
      cases h with
      | short => trivial
      | long => exact ⟨hb, ⟨rfl, nofun, hrun, hext⟩, hun, ⟨fun _ _ => hcnt, nofun⟩, ht⟩
    case h_3 => cases h <;> exact ⟨hb, ⟨rfl, nofun, hrun, hext⟩, hun, ⟨fun _ _ => hcnt, nofun⟩, ht⟩
    case h_4 => cases h <;> first | exact bit _ | trivial
    case h_5 => cases h <;> first | exact bit _ | trivial
    all_goals trivial
  cases c with
  | short => exact data _
  | long => exact data _
  | outOfRange => trivial
  | gap =>
    simp only [laneStep, stepWs, wsGap]
    split
    · rename_i hc
      simp only [wsMinBytes] at hc
      exact ⟨hb, by rw [paddedLen]; omega, hrun, hext, hun, ht⟩
    · trivial

theorem swStep_inv {cfg : Config} {c : PulseClass} {l : Lane} (hcfg : configOk cfg) (h : laneInv cfg .sw l)
    (hd : l.state ≠ .done) : (laneStep cfg .sw c l).All (laneInv cfg .sw) (completedOk cfg .sw) := by
  obtain ⟨hb, ⟨hin, hdone, hrun, hext⟩, hun, ⟨-, hcnt⟩, ht⟩ := h
  have hw := configOk_w hcfg .sw
  obtain ⟨hcnt, h45⟩ := hcnt rfl hd
  have hn : l.nbits.toNat < 255 := by omega
  have fin : ∀ l' : Lane, bufferOk (cfg.lane .sw).w l' → l'.run.toNat ≤ 21 → l'.ext = false → unusedOk .sw l' →
      l'.dedup.lastTime < 2 ^ cfg.timeBits →
      collected (cfg.lane .sw).w l' = l'.nbits.toNat - l'.nbits.toNat / 9 → l'.nbits.toNat ≤ 45 →
      (swEndBit l').All (laneInv cfg .sw) (completedOk cfg .sw) := fun l' h1 h2 h3 h4 h5 h6 h7 => by
    unfold swEndBit
    simp only
    split
    · rename_i hm
      simp [swCountMatch, h3, swLen] at hm
      refine ⟨h1, one_le_paddedLen (w := (cfg.lane .sw).w) ?_, h2, h3, h4, h5⟩
      show 0 < collected _ l'
      omega
    · rename_i hm
      simp [swCountMatch, h3, swLen] at hm
      exact ⟨h1, ⟨rfl, nofun, h2, h3⟩, h4, ⟨nofun, fun _ _ => ⟨h6, by simp only; omega⟩⟩, h5⟩
  have bit : ∀ v, (swBit (cfg.lane .sw).w v l).All (laneInv cfg .sw) (completedOk cfg .sw) := fun v => by
    unfold swBit
    simp only
    split
    · rename_i hm
      simp only [isParityBit, swGroup, toNat_succ hn, beq_iff_eq] at hm
      split
      · trivial
      · refine fin _ hb hrun hext (by simpa [unusedOk] using hun) ht ?_ ?_
        · rw [toNat_succ hn]
          show collected _ l = _
          omega
        · simp only [toNat_succ hn]; omega
    · rename_i hm
      simp only [isParityBit, swGroup, toNat_succ hn, beq_iff_eq] at hm
      refine append_inStep (l := { l with nbits := l.nbits + 1 }) hw hb fun l' h1 h2 h3 => ?_
      obtain ⟨r1, r2, r3, r4, r5, r6, r7, r8, r9, r10⟩ := h3.regs
      have hc := h2.collected
      have hc' : collected (cfg.lane .sw).w { l with nbits := l.nbits + 1 } = collected (cfg.lane .sw).w l := rfl
      rw [hc'] at hc
      have hn5 : l'.nbits.toNat = l.nbits.toNat + 1 := by rw [r5, toNat_succ hn]
      refine fin _ h1 (by simpa [r3] using hrun) (by simpa [r7] using hext) ?_ (by simpa [r10] using ht) ?_ ?_
      · simpa [unusedOk, r1, r4, r8, r9] using hun
      · show collected _ l' = _
        simp only; omega
      · simp only; omega
  have data : ∀ h, (swData (cfg.lane .sw).w h l).All (laneInv cfg .sw) (completedOk cfg .sw) := fun h => by
    unfold swData
    split
    case h_1 =>
      cases h with
      | short =>
        exact ⟨hb, ⟨hin, fun h => (hd h).elim, by simp only [satRun_toNat]; omega, hext⟩,
          by simpa [unusedOk] using hun, ⟨nofun, fun _ _ => ⟨hcnt, h45⟩⟩, ht⟩
      | long =>
        simp only [swRunIn]
        split
        · exact ⟨hb, ⟨rfl, nofun, hrun, hext⟩, hun, ⟨nofun, fun _ _ => ⟨hcnt, h45⟩⟩, ht⟩
        · trivial
    case h_2 => cases h <;> exact ⟨hb, ⟨rfl, nofun, hrun, hext⟩, hun, ⟨nofun, fun _ _ => ⟨hcnt, h45⟩⟩, ht⟩
    case h_3 => cases h <;> first | exact bit _ | trivial
    case h_4 => cases h <;> first | exact bit _ | trivial
    all_goals trivial
  cases c with
  | short => exact data _
  | long => exact data _
  | outOfRange => trivial
  | gap =>
    simp only [laneStep, stepSw, swGap]
    split
    · rename_i hc
      simp only [swMinBytes] at hc
      exact ⟨hb, by rw [paddedLen]; omega, hrun, hext, hun, ht⟩
    · trivial

/-- A step of any lane that has its invariant. -/
theorem laneStep_inv {cfg : Config} {p : LaneId} {c : PulseClass} {l : Lane} (hcfg : configOk cfg)
    (h : laneInv cfg p l) (hd : l.state ≠ .done) :
    (laneStep cfg p c l).All (laneInv cfg p) (completedOk cfg p) := by
  cases p
  exacts [secStep_inv hcfg h, emStep_inv hcfg h, wsStep_inv hcfg h hd, swStep_inv hcfg h hd]

/-- The invariants of the block, lane by lane. -/
theorem blockInv_iff (s : State) : blockInv s ↔ configOk s.cfg ∧ ∀ p, laneInv s.cfg p (s.lane p) := by
  constructor
  · rintro ⟨h, a, b, c, d⟩
    refine ⟨h, fun p => ?_⟩
    cases p
    exacts [a, b, c, d]
  · rintro ⟨h, f⟩
    exact ⟨h, f .sec, f .em, f .ws, f .sw⟩

theorem buffersInv_iff (s : State) : buffersInv s ↔ configOk s.cfg ∧ ∀ p, bufferOk (s.cfg.lane p).w (s.lane p) := by
  constructor
  · rintro ⟨h, a, b, c, d⟩
    refine ⟨h, fun p => ?_⟩
    cases p
    exacts [a, b, c, d]
  · rintro ⟨h, f⟩
    exact ⟨h, f .sec, f .em, f .ws, f .sw⟩

end Sys2Proof.Machine
end

