-- ==== Sys2Proof/Laws/PerInstr.lean ====
section
/-!
SUPPORT. Facts about every instruction as syntax, one lemma per constructor. `FormatFits`: what the encoder writes for
a well-formed instruction lies within its format (spec/30_encoding.md R81, R83).
-/

namespace Sys2Proof.Laws.FormatFits

/-- A well-formed instruction is encoded within its format's bits. -/
def Statement (i : Instr) : Prop :=
  ∀ widthBits, wellFormed widthBits i = true → (encode widthBits i).fits widthBits = true

/-- A command word whose fields are in range fits (R81). -/
theorem command_fits {widthBits op lane arg : Nat} (hop : op < 16) (hl : lane < 4) (ha : arg < 2 ^ widthBits) :
    (Code.command (commandWord widthBits op lane arg)).fits widthBits = true := by
  simp only [Code.fits, commandWord_eq, decide_eq_true_eq, Nat.pow_add]
  have : (op * 16 + lane * 4) * 2 ^ widthBits ≤ 255 * 2 ^ widthBits := Nat.mul_le_mul_right _ (by omega)
  omega

theorem nop : Statement (.nop) := fun _ _ => command_fits (by decide) (by decide) (Nat.two_pow_pos _)
theorem feed (width : Nat) : Statement (.feed width) := fun _ h => command_fits (by decide) (by decide) (by simpa [wellFormed] using h)
theorem take (p : LaneId) : Statement (.take p) := fun _ _ => command_fits (by decide) (laneCode_lt p) (Nat.two_pow_pos _)
theorem reset (p : LaneId) : Statement (.reset p) := fun _ _ => command_fits (by decide) (laneCode_lt p) (Nat.two_pow_pos _)
theorem reserved4 : Statement (.reserved4) := fun _ _ => command_fits (by decide) (by decide) (Nat.two_pow_pos _)
theorem reserved5 : Statement (.reserved5) := fun _ _ => command_fits (by decide) (by decide) (Nat.two_pow_pos _)
theorem reserved6 : Statement (.reserved6) := fun _ _ => command_fits (by decide) (by decide) (Nat.two_pow_pos _)
theorem reserved7 : Statement (.reserved7) := fun _ _ => command_fits (by decide) (by decide) (Nat.two_pow_pos _)
theorem append (p : LaneId) (v : Bool) : Statement (.append p v) := fun _ h => command_fits (by decide) (laneCode_lt p) (by simpa [wellFormed] using h)
theorem manch (p : LaneId) (raw : Bool) : Statement (.manch p raw) := fun _ h => command_fits (by decide) (laneCode_lt p) (by simpa [wellFormed] using h)
theorem pad (p : LaneId) : Statement (.pad p) := fun _ _ => command_fits (by decide) (laneCode_lt p) (Nat.two_pow_pos _)
theorem align (p : LaneId) (max : BitVec 5) : Statement (.align p max) := fun _ h => command_fits (by decide) (laneCode_lt p) (by simpa [wellFormed] using h)
theorem revb (p : LaneId) : Statement (.revb p) := fun _ _ => command_fits (by decide) (laneCode_lt p) (Nat.two_pow_pos _)
theorem revn (p : LaneId) : Statement (.revn p) := fun _ _ => command_fits (by decide) (laneCode_lt p) (Nat.two_pow_pos _)
theorem invert (p : LaneId) : Statement (.invert p) := fun _ _ => command_fits (by decide) (laneCode_lt p) (Nat.two_pow_pos _)
theorem admitPacket (p : LaneId) : Statement (.admitPacket p) := fun _ _ => command_fits (by decide) (laneCode_lt p) (Nat.two_pow_pos _)
theorem tSecUnknownS : Statement .tSecUnknownS := fun _ _ => rfl
theorem tSecUnknownL : Statement .tSecUnknownL := fun _ _ => rfl
theorem tSecUnknownG : Statement .tSecUnknownG := fun _ _ => rfl
theorem tSecUnknownX : Statement .tSecUnknownX := fun _ _ => rfl
theorem tSecSyncS : Statement .tSecSyncS := fun _ _ => rfl
theorem tSecSyncL : Statement .tSecSyncL := fun _ _ => rfl
theorem tSecSyncG : Statement .tSecSyncG := fun _ _ => rfl
theorem tSecSyncX : Statement .tSecSyncX := fun _ _ => rfl
theorem tSecPhaseAS : Statement .tSecPhaseAS := fun _ _ => rfl
theorem tSecPhaseAL : Statement .tSecPhaseAL := fun _ _ => rfl
theorem tSecPhaseAG : Statement .tSecPhaseAG := fun _ _ => rfl
theorem tSecPhaseAX : Statement .tSecPhaseAX := fun _ _ => rfl
theorem tSecPhaseBS : Statement .tSecPhaseBS := fun _ _ => rfl
theorem tSecPhaseBL : Statement .tSecPhaseBL := fun _ _ => rfl
theorem tSecPhaseBG : Statement .tSecPhaseBG := fun _ _ => rfl
theorem tSecPhaseBX : Statement .tSecPhaseBX := fun _ _ => rfl
theorem tSecConfirmedS : Statement .tSecConfirmedS := fun _ _ => rfl
theorem tSecConfirmedL : Statement .tSecConfirmedL := fun _ _ => rfl
theorem tSecConfirmedG : Statement .tSecConfirmedG := fun _ _ => rfl
theorem tSecConfirmedX : Statement .tSecConfirmedX := fun _ _ => rfl
theorem tSecTrailingS : Statement .tSecTrailingS := fun _ _ => rfl
theorem tSecTrailingL : Statement .tSecTrailingL := fun _ _ => rfl
theorem tSecTrailingG : Statement .tSecTrailingG := fun _ _ => rfl
theorem tSecTrailingX : Statement .tSecTrailingX := fun _ _ => rfl
theorem tSecDoneS : Statement .tSecDoneS := fun _ _ => rfl
theorem tSecDoneL : Statement .tSecDoneL := fun _ _ => rfl
theorem tSecDoneG : Statement .tSecDoneG := fun _ _ => rfl
theorem tSecDoneX : Statement .tSecDoneX := fun _ _ => rfl
theorem tSecRsv7S : Statement .tSecRsv7S := fun _ _ => rfl
theorem tSecRsv7L : Statement .tSecRsv7L := fun _ _ => rfl
theorem tSecRsv7G : Statement .tSecRsv7G := fun _ _ => rfl
theorem tSecRsv7X : Statement .tSecRsv7X := fun _ _ => rfl
theorem tEmUnknownS : Statement .tEmUnknownS := fun _ _ => rfl
theorem tEmUnknownL : Statement .tEmUnknownL := fun _ _ => rfl
theorem tEmUnknownG : Statement .tEmUnknownG := fun _ _ => rfl
theorem tEmUnknownX : Statement .tEmUnknownX := fun _ _ => rfl
theorem tEmSyncS : Statement .tEmSyncS := fun _ _ => rfl
theorem tEmSyncL : Statement .tEmSyncL := fun _ _ => rfl
theorem tEmSyncG : Statement .tEmSyncG := fun _ _ => rfl
theorem tEmSyncX : Statement .tEmSyncX := fun _ _ => rfl
theorem tEmPhaseAS : Statement .tEmPhaseAS := fun _ _ => rfl
theorem tEmPhaseAL : Statement .tEmPhaseAL := fun _ _ => rfl
theorem tEmPhaseAG : Statement .tEmPhaseAG := fun _ _ => rfl
theorem tEmPhaseAX : Statement .tEmPhaseAX := fun _ _ => rfl
theorem tEmPhaseBS : Statement .tEmPhaseBS := fun _ _ => rfl
theorem tEmPhaseBL : Statement .tEmPhaseBL := fun _ _ => rfl
theorem tEmPhaseBG : Statement .tEmPhaseBG := fun _ _ => rfl
theorem tEmPhaseBX : Statement .tEmPhaseBX := fun _ _ => rfl
theorem tEmConfirmedS : Statement .tEmConfirmedS := fun _ _ => rfl
theorem tEmConfirmedL : Statement .tEmConfirmedL := fun _ _ => rfl
theorem tEmConfirmedG : Statement .tEmConfirmedG := fun _ _ => rfl
theorem tEmConfirmedX : Statement .tEmConfirmedX := fun _ _ => rfl
theorem tEmTrailingS : Statement .tEmTrailingS := fun _ _ => rfl
theorem tEmTrailingL : Statement .tEmTrailingL := fun _ _ => rfl
theorem tEmTrailingG : Statement .tEmTrailingG := fun _ _ => rfl
theorem tEmTrailingX : Statement .tEmTrailingX := fun _ _ => rfl
theorem tEmDoneS : Statement .tEmDoneS := fun _ _ => rfl
theorem tEmDoneL : Statement .tEmDoneL := fun _ _ => rfl
theorem tEmDoneG : Statement .tEmDoneG := fun _ _ => rfl
theorem tEmDoneX : Statement .tEmDoneX := fun _ _ => rfl
theorem tEmRsv7S : Statement .tEmRsv7S := fun _ _ => rfl
theorem tEmRsv7L : Statement .tEmRsv7L := fun _ _ => rfl
theorem tEmRsv7G : Statement .tEmRsv7G := fun _ _ => rfl
theorem tEmRsv7X : Statement .tEmRsv7X := fun _ _ => rfl
theorem tWsUnknownS : Statement .tWsUnknownS := fun _ _ => rfl
theorem tWsUnknownL : Statement .tWsUnknownL := fun _ _ => rfl
theorem tWsUnknownG : Statement .tWsUnknownG := fun _ _ => rfl
theorem tWsUnknownX : Statement .tWsUnknownX := fun _ _ => rfl
theorem tWsSyncS : Statement .tWsSyncS := fun _ _ => rfl
theorem tWsSyncL : Statement .tWsSyncL := fun _ _ => rfl
theorem tWsSyncG : Statement .tWsSyncG := fun _ _ => rfl
theorem tWsSyncX : Statement .tWsSyncX := fun _ _ => rfl
theorem tWsPhaseAS : Statement .tWsPhaseAS := fun _ _ => rfl
theorem tWsPhaseAL : Statement .tWsPhaseAL := fun _ _ => rfl
theorem tWsPhaseAG : Statement .tWsPhaseAG := fun _ _ => rfl
theorem tWsPhaseAX : Statement .tWsPhaseAX := fun _ _ => rfl
theorem tWsPhaseBS : Statement .tWsPhaseBS := fun _ _ => rfl
theorem tWsPhaseBL : Statement .tWsPhaseBL := fun _ _ => rfl
theorem tWsPhaseBG : Statement .tWsPhaseBG := fun _ _ => rfl
theorem tWsPhaseBX : Statement .tWsPhaseBX := fun _ _ => rfl
theorem tWsConfirmedS : Statement .tWsConfirmedS := fun _ _ => rfl
theorem tWsConfirmedL : Statement .tWsConfirmedL := fun _ _ => rfl
theorem tWsConfirmedG : Statement .tWsConfirmedG := fun _ _ => rfl
theorem tWsConfirmedX : Statement .tWsConfirmedX := fun _ _ => rfl
theorem tWsTrailingS : Statement .tWsTrailingS := fun _ _ => rfl
theorem tWsTrailingL : Statement .tWsTrailingL := fun _ _ => rfl
theorem tWsTrailingG : Statement .tWsTrailingG := fun _ _ => rfl
theorem tWsTrailingX : Statement .tWsTrailingX := fun _ _ => rfl
theorem tWsDoneS : Statement .tWsDoneS := fun _ _ => rfl
theorem tWsDoneL : Statement .tWsDoneL := fun _ _ => rfl
theorem tWsDoneG : Statement .tWsDoneG := fun _ _ => rfl
theorem tWsDoneX : Statement .tWsDoneX := fun _ _ => rfl
theorem tWsRsv7S : Statement .tWsRsv7S := fun _ _ => rfl
theorem tWsRsv7L : Statement .tWsRsv7L := fun _ _ => rfl
theorem tWsRsv7G : Statement .tWsRsv7G := fun _ _ => rfl
theorem tWsRsv7X : Statement .tWsRsv7X := fun _ _ => rfl
theorem tSwUnknownS : Statement .tSwUnknownS := fun _ _ => rfl
theorem tSwUnknownL : Statement .tSwUnknownL := fun _ _ => rfl
theorem tSwUnknownG : Statement .tSwUnknownG := fun _ _ => rfl
theorem tSwUnknownX : Statement .tSwUnknownX := fun _ _ => rfl
theorem tSwSyncS : Statement .tSwSyncS := fun _ _ => rfl
theorem tSwSyncL : Statement .tSwSyncL := fun _ _ => rfl
theorem tSwSyncG : Statement .tSwSyncG := fun _ _ => rfl
theorem tSwSyncX : Statement .tSwSyncX := fun _ _ => rfl
theorem tSwPhaseAS : Statement .tSwPhaseAS := fun _ _ => rfl
theorem tSwPhaseAL : Statement .tSwPhaseAL := fun _ _ => rfl
theorem tSwPhaseAG : Statement .tSwPhaseAG := fun _ _ => rfl
theorem tSwPhaseAX : Statement .tSwPhaseAX := fun _ _ => rfl
theorem tSwPhaseBS : Statement .tSwPhaseBS := fun _ _ => rfl
theorem tSwPhaseBL : Statement .tSwPhaseBL := fun _ _ => rfl
theorem tSwPhaseBG : Statement .tSwPhaseBG := fun _ _ => rfl
theorem tSwPhaseBX : Statement .tSwPhaseBX := fun _ _ => rfl
theorem tSwConfirmedS : Statement .tSwConfirmedS := fun _ _ => rfl
theorem tSwConfirmedL : Statement .tSwConfirmedL := fun _ _ => rfl
theorem tSwConfirmedG : Statement .tSwConfirmedG := fun _ _ => rfl
theorem tSwConfirmedX : Statement .tSwConfirmedX := fun _ _ => rfl
theorem tSwTrailingS : Statement .tSwTrailingS := fun _ _ => rfl
theorem tSwTrailingL : Statement .tSwTrailingL := fun _ _ => rfl
theorem tSwTrailingG : Statement .tSwTrailingG := fun _ _ => rfl
theorem tSwTrailingX : Statement .tSwTrailingX := fun _ _ => rfl
theorem tSwDoneS : Statement .tSwDoneS := fun _ _ => rfl
theorem tSwDoneL : Statement .tSwDoneL := fun _ _ => rfl
theorem tSwDoneG : Statement .tSwDoneG := fun _ _ => rfl
theorem tSwDoneX : Statement .tSwDoneX := fun _ _ => rfl
theorem tSwRsv7S : Statement .tSwRsv7S := fun _ _ => rfl
theorem tSwRsv7L : Statement .tSwRsv7L := fun _ _ => rfl
theorem tSwRsv7G : Statement .tSwRsv7G := fun _ _ => rfl
theorem tSwRsv7X : Statement .tSwRsv7X := fun _ _ => rfl

end Sys2Proof.Laws.FormatFits
end

