-- ==== Sys2Proof/Tests/Slice0.lean ====
section
/-!
SUPPORT. Tests: the refusals of WellFormed, the decoding of words written out from the spec's encodings, one-step
vectors of spec/95_test_vectors.md, and for every obligation with hypotheses a named witness that meets them. Expected
values are the spec's.
-/

namespace Sys2Proof.Tests

open Sys2Proof Sys2Proof.Machine

/-! ### Helpers -/

/-- A buffer that holds the given bytes from slot `i` on. -/
def slotsFrom : Nat → List Byte → Memory → Memory
  | _, [], m => m
  | i, b :: bs, m => slotsFrom (i + 1) bs (m.write i b)

/-- A power-on lane with cursors and bytes. -/
def lane (pos : BitVec 5) (bits : BitVec 4) (bytes : List Byte) : Lane :=
  { Lane.powerOn with pos := pos, bits := bits, data := slotsFrom 0 bytes [] }

/-- A full or nearly full buffer: `pos` at 24 or 25, every slot read as 0x00 but the last. -/
def laneAt (pos : BitVec 5) (bits : BitVec 4) (last : Byte) : Lane :=
  { Lane.powerOn with pos := pos, bits := bits, data := Memory.write [] 24 last }

/-- The reset state with one lane replaced. -/
def on (p : LaneId) (l : Lane) : State := State.reset.setLane p l

/-- The lane an outcome leaves, where it is a next state. -/
def laneOf (p : LaneId) : Host.Outcome State Fault Refusal → Option Lane
  | .next t => some (t.lane p)
  | _ => none

/-- The answer an outcome leaves, where it is a next state. -/
def replyOf : Host.Outcome State Fault Refusal → Option Reply
  | .next t => some t.reply
  | _ => none

/-- The cursors and the first bytes of a lane. -/
def shown (n : Nat) (l : Lane) : Nat × Nat × List Byte := (l.pos.toNat, l.bits.toNat, l.data.bytes n)

/-- The state after an outcome, or the state given. -/
def stateOr (s : State) : Host.Outcome State Fault Refusal → State
  | .next t => t
  | _ => s

/-- A block with 8 bits per byte on lane `p` SEC or EM. -/
def wide : Config := { Config.default with sec := { Config.default.sec with w := 8 }, em := { Config.default.em with w := 8 } }

/-! ### WellFormed: an ill-formed term for each check -/

theorem test_wf_feed_width : wellFormed 16 (.feed 65536) = false := by decide
theorem test_wf_append_bit : wellFormed 0 (.append .sec true) = false := by decide
theorem test_wf_manch_bit : wellFormed 0 (.manch .sw true) = false := by decide
theorem test_wf_align_max : wellFormed 4 (.align .em 25) = false := by decide
theorem test_wf_accepts : wellFormed 16 (.feed 65535) = true ∧ wellFormed 16 (.align .em 31) = true := by decide

/-! ### Decoding: words written out bit by bit -/

/-- Each code of the list decodes to the instruction beside it. -/
abbrev KeysRead (l : List (Nat × Instr)) : Prop :=
  (l.all fun r => decide (decode 16 (.key r.1) = .ok r.2)) = true

/-- Each word of the list, at the default WIDTH_BITS of 16, decodes to the instruction beside it. -/
abbrev WordsRead (l : List (Nat × Instr)) : Prop :=
  (l.all fun r => decide (decode 16 (.command r.1) = .ok r.2)) = true

/-- Format H (R81, R84): op, lane, rsv, arg. -/
theorem test_decode_host : WordsRead
    [(0b0000_00_00_0000000000000000, .nop), (0b0001_00_00_0000000110010000, .feed 400),
     (0b0010_11_00_0000000000000000, .take .sw), (0b0011_10_00_0000000000000000, .reset .ws),
     (0b0100_00_00_0000000000000000, .reserved4), (0b0101_01_00_0000000000000001, .reserved5),
     (0b0110_00_11_0000000000000000, .reserved6), (0b0111_00_00_1000000000000000, .reserved7)] := by decide

/-- Format U (R82, R84). -/
theorem test_decode_micro : WordsRead
    [(0b1000_00_00_0000000000000001, .append .sec true), (0b1001_01_00_0000000000000000, .manch .em false),
     (0b1010_10_00_0000000000000000, .pad .ws), (0b1011_11_00_0000000000011001, .align .sw 25),
     (0b1100_00_00_0000000000000000, .revb .sec), (0b1101_01_00_0000000000000000, .revn .em),
     (0b1110_10_00_0000000000000000, .invert .ws), (0b1111_11_00_0000000000000000, .admitPacket .sw)] := by decide

/-- Keys of lane SEC, written {lane, state, class} from R83 and R24. -/
theorem test_decode_keys_sec : KeysRead [
    (0b0000000, .tSecUnknownS), (0b0000001, .tSecUnknownL), (0b0000010, .tSecUnknownG), (0b0000011, .tSecUnknownX),
    (0b0000100, .tSecSyncS), (0b0000101, .tSecSyncL), (0b0000110, .tSecSyncG), (0b0000111, .tSecSyncX),
    (0b0001000, .tSecPhaseAS), (0b0001001, .tSecPhaseAL), (0b0001010, .tSecPhaseAG), (0b0001011, .tSecPhaseAX),
    (0b0001100, .tSecPhaseBS), (0b0001101, .tSecPhaseBL), (0b0001110, .tSecPhaseBG), (0b0001111, .tSecPhaseBX)]
  ∧ KeysRead [
    (0b0010000, .tSecConfirmedS), (0b0010001, .tSecConfirmedL), (0b0010010, .tSecConfirmedG), (0b0010011, .tSecConfirmedX),
    (0b0010100, .tSecTrailingS), (0b0010101, .tSecTrailingL), (0b0010110, .tSecTrailingG), (0b0010111, .tSecTrailingX),
    (0b0011000, .tSecDoneS), (0b0011001, .tSecDoneL), (0b0011010, .tSecDoneG), (0b0011011, .tSecDoneX),
    (0b0011100, .tSecRsv7S), (0b0011101, .tSecRsv7L), (0b0011110, .tSecRsv7G), (0b0011111, .tSecRsv7X)] := by decide

/-- Keys of lane EM, written {lane, state, class} from R83 and R24. -/
theorem test_decode_keys_em : KeysRead [
    (0b0100000, .tEmUnknownS), (0b0100001, .tEmUnknownL), (0b0100010, .tEmUnknownG), (0b0100011, .tEmUnknownX),
    (0b0100100, .tEmSyncS), (0b0100101, .tEmSyncL), (0b0100110, .tEmSyncG), (0b0100111, .tEmSyncX),
    (0b0101000, .tEmPhaseAS), (0b0101001, .tEmPhaseAL), (0b0101010, .tEmPhaseAG), (0b0101011, .tEmPhaseAX),
    (0b0101100, .tEmPhaseBS), (0b0101101, .tEmPhaseBL), (0b0101110, .tEmPhaseBG), (0b0101111, .tEmPhaseBX)]
  ∧ KeysRead [
    (0b0110000, .tEmConfirmedS), (0b0110001, .tEmConfirmedL), (0b0110010, .tEmConfirmedG), (0b0110011, .tEmConfirmedX),
    (0b0110100, .tEmTrailingS), (0b0110101, .tEmTrailingL), (0b0110110, .tEmTrailingG), (0b0110111, .tEmTrailingX),
    (0b0111000, .tEmDoneS), (0b0111001, .tEmDoneL), (0b0111010, .tEmDoneG), (0b0111011, .tEmDoneX),
    (0b0111100, .tEmRsv7S), (0b0111101, .tEmRsv7L), (0b0111110, .tEmRsv7G), (0b0111111, .tEmRsv7X)] := by decide

/-- Keys of lane WS, written {lane, state, class} from R83 and R24. -/
theorem test_decode_keys_ws : KeysRead [
    (0b1000000, .tWsUnknownS), (0b1000001, .tWsUnknownL), (0b1000010, .tWsUnknownG), (0b1000011, .tWsUnknownX),
    (0b1000100, .tWsSyncS), (0b1000101, .tWsSyncL), (0b1000110, .tWsSyncG), (0b1000111, .tWsSyncX),
    (0b1001000, .tWsPhaseAS), (0b1001001, .tWsPhaseAL), (0b1001010, .tWsPhaseAG), (0b1001011, .tWsPhaseAX),
    (0b1001100, .tWsPhaseBS), (0b1001101, .tWsPhaseBL), (0b1001110, .tWsPhaseBG), (0b1001111, .tWsPhaseBX)]
  ∧ KeysRead [
    (0b1010000, .tWsConfirmedS), (0b1010001, .tWsConfirmedL), (0b1010010, .tWsConfirmedG), (0b1010011, .tWsConfirmedX),
    (0b1010100, .tWsTrailingS), (0b1010101, .tWsTrailingL), (0b1010110, .tWsTrailingG), (0b1010111, .tWsTrailingX),
    (0b1011000, .tWsDoneS), (0b1011001, .tWsDoneL), (0b1011010, .tWsDoneG), (0b1011011, .tWsDoneX),
    (0b1011100, .tWsRsv7S), (0b1011101, .tWsRsv7L), (0b1011110, .tWsRsv7G), (0b1011111, .tWsRsv7X)] := by decide

/-- Keys of lane SW, written {lane, state, class} from R83 and R24. -/
theorem test_decode_keys_sw : KeysRead [
    (0b1100000, .tSwUnknownS), (0b1100001, .tSwUnknownL), (0b1100010, .tSwUnknownG), (0b1100011, .tSwUnknownX),
    (0b1100100, .tSwSyncS), (0b1100101, .tSwSyncL), (0b1100110, .tSwSyncG), (0b1100111, .tSwSyncX),
    (0b1101000, .tSwPhaseAS), (0b1101001, .tSwPhaseAL), (0b1101010, .tSwPhaseAG), (0b1101011, .tSwPhaseAX),
    (0b1101100, .tSwPhaseBS), (0b1101101, .tSwPhaseBL), (0b1101110, .tSwPhaseBG), (0b1101111, .tSwPhaseBX)]
  ∧ KeysRead [
    (0b1110000, .tSwConfirmedS), (0b1110001, .tSwConfirmedL), (0b1110010, .tSwConfirmedG), (0b1110011, .tSwConfirmedX),
    (0b1110100, .tSwTrailingS), (0b1110101, .tSwTrailingL), (0b1110110, .tSwTrailingG), (0b1110111, .tSwTrailingX),
    (0b1111000, .tSwDoneS), (0b1111001, .tSwDoneL), (0b1111010, .tSwDoneG), (0b1111011, .tSwDoneX),
    (0b1111100, .tSwRsv7S), (0b1111101, .tSwRsv7L), (0b1111110, .tSwRsv7G), (0b1111111, .tSwRsv7X)] := by decide

/-- A key of 8 bits, a word of 25 bits and a micro-operation on the host port are rejected by name (R81, R83, R87). -/
theorem test_decode_rejects : decode 16 (.key 0b10000000) = .error .keyTooWide
    ∧ decode 16 (.command 0x1000000) = .error .wordTooWide ∧ decodeHost 16 0x800001 = .error .microOnHostPort := by decide

/-- The same FEED at WIDTH_BITS 12: op in bits 19 to 16 (R81). -/
theorem test_decode_width12 : decode 12 (.command 0b0001_00_00_000110010000) = .ok (.feed 400) := by decide

/-! ### Vectors of 95_test_vectors.md, one step each -/

/-- V1: the classes of the table, at its corners, lanes SEC, EM, WS, SW. -/
theorem test_v1_classifier :
    [200, 300, 500, 600, 775, 1000, 1500, 2500].map (fun w => [LaneId.sec, .em, .ws, .sw].map fun p => classify Config.default p w)
      = [[.short, .short, .short, .outOfRange], [.short, .short, .short, .short], [.short, .short, .short, .long],
         [.long, .long, .long, .long], [.long, .long, .long, .outOfRange],
         [.outOfRange, .outOfRange, .outOfRange, .outOfRange], [.outOfRange, .gap, .gap, .gap],
         [.gap, .gap, .gap, .gap]] := by decide

/-- V2.4: the last APPEND that fits, lane SEC. -/
theorem test_v2_4_append_last : (laneOf .sec (exec (.append .sec true) (on .sec (laneAt 24 6 0xFC)))).map
    (fun l => (l.pos.toNat, l.bits.toNat, l.data.read 24)) = some (25, 0, 0xFE) := by decide

/-- V2.4: the next APPEND overflows; the lane takes it by its reset (R114). -/
theorem test_v2_4_append_overflow :
    replyOf (exec (.append .sec false) (on .sec (laneAt 25 0 0xFE))) = some (.micro true)
    ∧ laneOf .sec (exec (.append .sec false) (on .sec (laneAt 25 0 0xFE))) = some Lane.powerOn := by decide

/-- V3: the sixth column, raw 0 on `flip = 1` and `data[0] = B8`. -/
theorem test_v3_manch : (laneOf .sw (exec (.manch .sw false) (on .sw { lane 0 5 [0xB8] with flip := true }))).map
    (fun l => (l.flip, l.data.read 0)) = some (true, 0xDC) := by decide

/-- V3: the seventh column, raw 1 on `flip = 1` and `data[0] = DC`. -/
theorem test_v3_manch_toggle : (laneOf .sw (exec (.manch .sw true) (on .sw { lane 0 6 [0xDC] with flip := true }))).map
    (fun l => (l.flip, l.data.read 0)) = some (false, 0x6E) := by decide

/-- V4.1: PAD with 8 bits per byte. -/
theorem test_v4_1_pad : (laneOf .sw (exec (.pad .sw) (on .sw (lane 0 3 [0xE0])))).map (shown 1)
    = some (1, 0, [0x07]) := by decide

/-- V4.4: PAD of the last slot with 7 bits per byte. -/
theorem test_v4_4_pad_last : (laneOf .sec (exec (.pad .sec) (on .sec (laneAt 24 1 0x80)))).map
    (fun l => (l.pos.toNat, l.bits.toNat, l.data.read 24)) = some (25, 0, 0x02) := by decide

/-- V4.5: ALIGN 5 with a partial slot. -/
theorem test_v4_5_align : (laneOf .sw (exec (.align .sw 5)
      (on .sw (lane 7 3 [0x11, 0x22, 0x33, 0x44, 0x55, 0x66, 0x77, 0xA0])))).map (shown 9)
    = some (5, 0, [0x44, 0x55, 0x66, 0x77, 0x05, 0, 0, 0, 0]) := by decide

/-- V4.7: ALIGN 5 with fewer than 5 bytes only pads. -/
theorem test_v4_7_align_short : (laneOf .sw (exec (.align .sw 5) (on .sw (lane 3 3 [0x11, 0x22, 0x33, 0xA0])))).map
    (shown 5) = some (4, 0, [0x11, 0x22, 0x33, 0x05, 0]) := by decide

/-- V4.9: REVB leaves the partial slot. -/
theorem test_v4_9_revb : (laneOf .sw (exec (.revb .sw) (on .sw (lane 3 2 [0x12, 0x34, 0xF0, 0xC0])))).map (shown 4)
    = some (3, 2, [0x48, 0x2C, 0x0F, 0xC0]) := by decide

/-- V4.10: REVN leaves the partial slot. -/
theorem test_v4_10_revn : (laneOf .sw (exec (.revn .sw) (on .sw (lane 3 2 [0x12, 0x34, 0xF0, 0xC0])))).map (shown 4)
    = some (3, 2, [0x21, 0x43, 0x0F, 0xC0]) := by decide

/-- V4.11: INVERT takes the partial slot too. -/
theorem test_v4_11_invert : (laneOf .sw (exec (.invert .sw) (on .sw (lane 2 3 [0x12, 0x34, 0xA0])))).map (shown 4)
    = some (2, 3, [0xED, 0xCB, 0x5F, 0x00]) := by decide

/-- V5: two of the checksums. -/
theorem test_v5_crc : crcOf .default [] = 0xFFFF ∧ crcOf .default [0x12, 0x34, 0x56, 0x78, 0x9A] = 0x48D0 := by decide +kernel

/-- V5: the check value of the nine ASCII digits. -/
theorem test_v5_crc_digits :
    crcOf .default [0x31, 0x32, 0x33, 0x34, 0x35, 0x36, 0x37, 0x38, 0x39] = 0x4B37 := by decide +kernel

/-- V5.1, third row: packet A again after 5 tenths. -/
theorem test_v5_1_admit : (fun o => (replyOf o, (laneOf .sw o).map Lane.dedup)) (exec (.admitPacket .sw)
      { on .sw { lane 5 0 [0x12, 0x34, 0x56, 0x78, 0x9A] with
          dedup := { lastCrc := 0x48D0, lastTime := 1003, repeats := 1 } } with now := 1008 })
    = (some (.admitted false), some { lastCrc := 0x48D0, lastTime := 1008, repeats := 2 }) := by decide +kernel

/-- V5.3: the elapsed time over a wrap of `now`, and the fourth copy's. -/
theorem test_v5_3_elapsed : elapsed 16 2 65534 = 4 ∧ elapsed 16 9 2 = 7 := by decide

/-- V6.6, pulse 8: the sync loss. -/
theorem test_v6_6_sync_loss : (laneOf .sec (exec .tSecPhaseAS (on .sec { lane 0 3 [0xA0] with state := .phaseA }))).map
    (shown 1) = some (0, 4, [0x2F]) := by decide

/-- V6.1, the gap: packet and record. -/
theorem test_v6_1_gap : (laneOf .sec (exec (.feed 3000) { on .sec { lane 5 1 [0xFE, 0x24, 0x68, 0xAC, 0x0E, 0x80] with
      state := .confirmed } with now := 200 })).map (fun l => (l.state, l.packet, l.dedup))
    = some (.done, [0x24, 0x68, 0xAC, 0x0E, 0x02], { lastCrc := 0xE70D, lastTime := 200, repeats := 0 }) := by decide +kernel

/-- V6.3: the check fails. -/
theorem test_v6_3_check : laneOf .sec (exec .tSecConfirmedG
      (on .sec { lane 5 1 [0xFE, 0x34, 0x68, 0xAC, 0x0E, 0x80] with state := .confirmed })) = some Lane.powerOn := by decide

/-- V7.5, the gap: the partial tenth byte is padded. -/
theorem test_v7_5_gap : (laneOf .em (exec (.feed 1500) { on .em { lane 9 2
      [0xAA, 0x54, 0xFE, 0x00, 0x02, 0x80, 0x66, 0x98, 0x24, 0xC0] with state := .confirmed } with now := 1000 })).map
      (fun l => (l.state, l.packet, l.dedup.lastCrc))
    = some (.done, [0xAA, 0x54, 0xFE, 0x00, 0x02, 0x80, 0x66, 0x98, 0x24, 0x06], 0xF712) := by decide +kernel

/-- V7.2: 8 bytes and 6 bits are not 9 bytes. -/
theorem test_v7_2_gap : laneOf .em (exec .tEmConfirmedG
      (on .em { lane 8 6 [0x54, 0xAA, 0x54, 0xAA, 0x54, 0xAA, 0x54, 0xAA, 0xA8] with state := .confirmed }))
    = some Lane.powerOn := by decide

/-- R212: a repeated short after 13 and after 14 pulses of the run. -/
theorem test_ws_run_end :
    (laneOf .ws (exec .tWsUnknownS (on .ws { Lane.powerOn with run := 14 }))).map Lane.state = some .sync
    ∧ laneOf .ws (exec .tWsUnknownS (on .ws { Lane.powerOn with run := 13 })) = some Lane.powerOn := by decide

/-- R216, R217: the type captured when slot 0 completes (raw bit 9). -/
theorem test_ws_capture : (laneOf .ws (exec .tWsPhaseBS (on .ws { lane 0 7 [0x42] with state := .phaseB, nbits := 8 }))).map
    (fun l => (l.mvalid, l.mtype, l.nbits, l.pos)) = some (true, 1, 9, 1) := by decide

/-- R245: a wrong parity bit. -/
theorem test_sw_parity : laneOf .sw (exec .tSwPhaseBL (on .sw { lane 1 0 [0x12] with state := .phaseB, nbits := 8 }))
    = some Lane.powerOn := by decide

/-- The word of opcode-table row T.SW.PhaseB.L and that of FEED 400 run as the first instruction after reset. -/
theorem test_first_instruction :
    replyOf (step (State.reset.withFetchWord 8 0x6D)) = some (.laneFed false)
    ∧ replyOf (step (State.reset.withFetchWord 24 0x100190)) = some (.fed 0)
    ∧ replyOf (step (State.reset.withFetchWord 24 0xA00000)) = some (.micro false) := by decide

/-- Program P5's last words: a reserved op and a micro-operation on the host port answer ILLEGAL. -/
theorem test_illegal_words :
    replyOf (step { State.reset with inbox := [⟨0, .host 0x500000⟩] }) = some .illegal
    ∧ replyOf (step { State.reset with inbox := [⟨0, .host 0xB00005⟩] }) = some .illegal := by decide

/-! ### Witnesses: for every obligation with hypotheses, values that meet them, each clause at a boundary -/

/-- A lane whose buffer is full or one bit short of it. -/
theorem buffer_full : bufferOk 7 (laneAt 25 0 0xFE) ∧ bufferOk 8 (laneAt 25 0 0xFE) ∧ bufferOk 7 (laneAt 24 6 0xFC)
    ∧ bufferOk 8 (laneAt 24 7 0xFC) := by decide

theorem config_legal : configOk Config.default ∧ configOk wide := by decide

theorem witness_DecodeEncodeAgree : wellFormed 0 .nop = true ∧ wellFormed 16 (.feed 65535) = true
    ∧ wellFormed 1 (.append .em true) = true ∧ wellFormed 5 (.align .sw 31) = true ∧ wellFormed 0 .tWsRsv7X = true := by decide

theorem witness_KeysHaveOneMeaning : (127 : Nat) < 128 ∧ (0 : Nat) < 128 := by decide

/-- Every field at its greatest value. -/
theorem witness_CommandFieldsDecide : (15 : Nat) < 16 ∧ (3 : Nat) < 4 ∧ 65535 < 2 ^ 16 := by decide

/-- Format U words with every ignored bit set: MANCH of 0 and ALIGN 5 on lane WS, PAD on lane SW (R82, R86, R88). -/
theorem test_decode_ignored_bits : WordsRead [(0x9BFFFE, .manch .ws false), (0xBBFFE5, .align .ws 5),
    (0xAFFFFF, .pad .sw), (0x7FFFFF, .reserved7)] := by decide

/-- The least and the greatest word that the host port refuses. -/
theorem witness_HostPortRefusesOtherOps : configOk State.reset.cfg
    ∧ 4 * 2 ^ (16 + 4) ≤ 0x400000 ∧ 0x400000 < 2 ^ (16 + 8) ∧ 4 * 2 ^ (16 + 4) ≤ 0xFFFFFF ∧ 0xFFFFFF < 2 ^ (16 + 8)
    ∧ ({ State.reset with inbox := [⟨0, .host 0x400000⟩] } : State).inbox = ⟨0, .host 0x400000⟩ :: [] := by decide

/-- A pulse at lane SW, which is in PhaseB: its clause of StepRunsDecodedInstruction, with the key it selects. -/
theorem witness_StepRunsDecodedInstruction_pulse :
    let s := { on .sw { lane 1 0 [0x12] with state := .phaseB, nbits := 8 } with inbox := [⟨70000, .pulse .sw .long⟩] }
    configOk s.cfg ∧ s.inbox = ⟨70000, .pulse .sw .long⟩ :: [] ∧ keyInstr .sw (s.lane .sw).state .long = .tSwPhaseBL := by
  decide

/-- The clauses of StepRunsDecodedInstruction: a host word, a micro-operation word, an idle port, a bad configuration. -/
theorem witness_StepRunsDecodedInstruction :
    (decodeHost 16 0x100190 = .ok (.feed 400) ∧ wellFormed 16 (.feed 400) = true ∧ 0x100190 < 2 ^ (16 + 8))
    ∧ (decode 16 (.command 0xFC0000) = .ok (.admitPacket .sw) ∧ wellFormed 16 (.admitPacket .sw) = true ∧ 0xFC0000 < 2 ^ (16 + 8))
    ∧ State.reset.inbox = [] ∧ configOk State.reset.cfg ∧ ¬ configOk { Config.default with widthBits := 11 } := by decide

theorem witness_TakeReturnsPacketAndResets :
    ((on .sw { lane 5 0 [1] with state := .done }).lane .sw).state = .done
    ∧ ((on .em { laneAt 25 0 0xFE with state := .done }).lane .em).pos.toNat ≤ 25 := by decide

theorem witness_TakeWithoutPacketChangesNothing : (State.reset.lane .sec).state ≠ .done := by decide

/-- A full buffer, and the reset state. -/
theorem witness_FeedStepsEveryLane : buffersInv State.reset ∧ buffersInv (on .em (laneAt 25 0 0xFE)) :=
  ⟨⟨by decide, by decide, by decide, by decide, by decide⟩, ⟨by decide, by decide, by decide, by decide, by decide⟩⟩

/-- Two states that agree on lane SEC only, and answer a FEED. -/
theorem witness_FeedLanesAreIndependent : ∃ t t',
    (on .em (lane 3 0 [7])).cfg = State.reset.cfg ∧ (on .em (lane 3 0 [7])).now = State.reset.now
    ∧ (on .em (lane 3 0 [7])).lane .sec = State.reset.lane .sec
    ∧ exec (.feed 400) (on .em (lane 3 0 [7])) = .next t ∧ exec (.feed 400) State.reset = .next t' :=
  ⟨_, _, rfl, rfl, rfl, rfl, rfl⟩

/-- Each class of ClassifierBounds at both ends of its ranges. -/
theorem witness_ClassifierBounds : configOk Config.default
    ∧ [300, 499].map (classify Config.default .sw) = [.short, .short]
    ∧ [500, 774].map (classify Config.default .sw) = [.long, .long]
    ∧ [1500, 65535].map (classify Config.default .sw) = [.gap, .gap]
    ∧ [0, 299, 775, 1499].map (classify Config.default .sw)
        = [.outOfRange, .outOfRange, .outOfRange, .outOfRange] := by decide

theorem witness_HeldPacketIgnoresPulses : ∃ t, ((on .ws { lane 6 0 [1] with state := .done }).lane .ws).state = .done
    ∧ exec (.feed 400) (on .ws { lane 6 0 [1] with state := .done }) = .next t := ⟨_, rfl, rfl⟩

theorem witness_OutOfRangePulseResets : DecState.rsv7 ≠ .done
    ∧ ((on .em { lane 2 1 [3] with state := .rsv7 }).lane .em).state = .rsv7 := by decide

/-- One row of each lane. -/
theorem witness_StateOutsideSubsetResets : inSubset .sec .sync = false ∧ inSubset .em .phaseB = false
    ∧ inSubset .ws .trailing = false ∧ inSubset .sw .rsv7 = false
    ∧ ((on .sec { lane 2 1 [3] with state := .sync }).lane .sec).state = .sync := by decide

theorem witness_FirstHalfIsRemembered : ((on .sec (lane 2 1 [3])).lane .sec).state = .unknown
    ∧ ((on .sw { lane 2 1 [3] with state := .confirmed }).lane .sw).state = .confirmed := by decide

theorem witness_BadPairResets : ((on .ws { lane 2 1 [3] with state := .phaseA }).lane .ws).state = .phaseA
    ∧ ((on .sw { lane 2 1 [3] with state := .phaseB }).lane .sw).state = .phaseB := by decide

/-- A full buffer on lanes SEC, EM and WS; on WS raw bits 251 and 254 are no markers. -/
theorem witness_FullBufferOverflows :
    ((on .sec { laneAt 25 0 1 with state := .phaseA }).lane .sec).pos.toNat = 25
    ∧ ((on .em { laneAt 25 0 1 with state := .confirmed }).lane .em).pos.toNat = 25
    ∧ ((on .ws { laneAt 25 0 1 with state := .phaseB, nbits := 250 }).lane .ws).pos.toNat = 25
    ∧ (250 : BitVec 8).toNat < 255 ∧ ((250 : BitVec 8).toNat + 1) % 5 ≠ 0
    ∧ (253 : BitVec 8).toNat < 255 ∧ ((253 : BitVec 8).toNat + 1) % 5 ≠ 0 := by decide

/-- Both clauses on each of the three lanes, at the bound. -/
theorem witness_GapCompletesByLength : bufferOk 7 (lane 9 0 []) ∧ bufferOk 7 (lane 8 6 []) ∧ bufferOk 8 (lane 6 0 [])
    ∧ bufferOk 8 (lane 5 7 []) ∧ bufferOk 8 (lane 5 0 []) ∧ bufferOk 8 (lane 4 7 []) ∧ configOk Config.default
    ∧ 9 ≤ (lane 9 0 []).pos.toNat ∧ (lane 8 6 []).pos.toNat < 9 ∧ 6 ≤ (lane 6 0 []).pos.toNat
    ∧ (lane 5 7 []).pos.toNat < 6 ∧ 5 ≤ (lane 5 0 []).pos.toNat ∧ (lane 4 7 []).pos.toNat < 5 := by decide

/-- The last bit that fits. -/
theorem witness_SecUnequalPairStoresBit : configOk Config.default
    ∧ bufferOk Config.default.sec.w { laneAt 24 6 0xFC with state := .phaseA } ∧ (laneAt 24 6 0xFC).pos.toNat < 25 := by decide

theorem witness_SecEqualPairInverts : configOk Config.default
    ∧ bufferOk Config.default.sec.w { laneAt 24 6 0xFC with state := .phaseB } ∧ (laneAt 24 6 0xFC).pos.toNat < 25 := by decide

/-- The three clauses: 35 bits; 36 bits whose fold fails; 36 bits whose fold passes. -/
theorem witness_SecGapKeepsLastFive : configOk Config.default ∧ bufferOk 7 (lane 5 0 []) ∧ bufferOk 7 (lane 5 1 [])
    ∧ 7 * (lane 5 0 []).pos.toNat + (lane 5 0 []).bits.toNat < 36
    ∧ 36 ≤ 7 * (lane 5 1 [0, 0x10]).pos.toNat + (lane 5 1 [0, 0x10]).bits.toNat
    ∧ paddedByte 7 (lane 5 1 [0, 0x10]) 1 = 0x10 ∧ paddedByte 7 (lane 5 1 [0, 0x10]) 2 = 0
    ∧ 36 ≤ 7 * (lane 5 1 []).pos.toNat + (lane 5 1 []).bits.toNat := by decide

theorem witness_EmWakeToneCounts : (on .em { Lane.powerOn with run := 20 }).em.state = .unknown
    ∧ (on .em { Lane.powerOn with run := 19 }).em.state = .unknown := by decide

theorem witness_EmSyncPulseConfirms : (on .em { Lane.powerOn with run := 21, state := .sync }).em.state = .sync := by decide

theorem witness_EmDataPulseStoresBit : configOk Config.default
    ∧ bufferOk Config.default.em.w { laneAt 24 6 0xFC with state := .confirmed }
    ∧ bufferOk Config.default.em.w { laneAt 25 0 0xFE with state := .confirmed } := by decide

/-- The clauses: first pulse, toggle, the ends 14 and 20, the ends 13 and 21. -/
theorem witness_WsAlternatingRun : State.reset.ws.state = .unknown ∧ State.reset.ws.run = 0
    ∧ (false ≠ ({ Lane.powerOn with run := 1, prev := true } : Lane).prev)
    ∧ 14 ≤ (14 : BitVec 5).toNat ∧ (20 : BitVec 5).toNat ≤ 20 ∧ ¬ 14 ≤ (13 : BitVec 5).toNat
    ∧ ¬ (21 : BitVec 5).toNat ≤ 20 := by decide

theorem witness_WsSyncPairConfirms : (on .ws { Lane.powerOn with state := .sync }).ws.state = .sync := by decide

/-- Raw bits 5 and 255 are markers; both values of the bit. -/
theorem witness_WsMarkerIsChecked : (on .ws { lane 0 4 [0x10] with state := .phaseA, nbits := 4 }).ws.state = .phaseA
    ∧ ((4 : BitVec 8).toNat + 1) % 5 = 0 ∧ (4 : BitVec 8).toNat < 255
    ∧ ((254 : BitVec 8).toNat + 1) % 5 = 0 ∧ (254 : BitVec 8).toNat < 255
    ∧ true = State.reset.cfg.wsMarker ∧ false ≠ State.reset.cfg.wsMarker := by decide

/-- Raw bit 9 completes slot 0; raw bits 49 and 79 end the messages of types 1 and 7; the last slot is free. -/
theorem witness_WsDataBitIsStored : configOk Config.default
    ∧ bufferOk Config.default.ws.w { lane 0 7 [0x42] with state := .phaseB, nbits := 8 }
    ∧ bufferOk Config.default.ws.w { lane 4 7 [0x21] with state := .phaseA, nbits := 48, mtype := 1, mvalid := true }
    ∧ bufferOk Config.default.ws.w { lane 7 7 [0x27] with state := .phaseA, nbits := 78, mtype := 7, mvalid := true }
    ∧ (laneAt 24 7 1).pos.toNat < 25 ∧ ((8 : BitVec 8).toNat + 1) % 5 ≠ 0 ∧ ((48 : BitVec 8).toNat + 1) % 5 ≠ 0
    ∧ ((78 : BitVec 8).toNat + 1) % 5 ≠ 0 ∧ ((253 : BitVec 8).toNat + 1) % 5 ≠ 0 := by decide

/-- Runs of 20 and 21. -/
theorem witness_SwPreambleCounts : (on .sw { Lane.powerOn with run := 21 }).sw.state = .unknown
    ∧ 20 < (21 : BitVec 5).toNat ∧ (20 : BitVec 5).toNat ≤ 20 := by decide

/-- Raw bits 9 and 45, the second with `ext` 0. -/
theorem witness_SwParityIsChecked : configOk Config.default
    ∧ bufferOk Config.default.sw.w { lane 1 0 [0x12] with state := .phaseA, nbits := 8 }
    ∧ bufferOk Config.default.sw.w { lane 5 0 [0x12] with state := .phaseB, nbits := 44, par := true }
    ∧ ((8 : BitVec 8).toNat + 1) % 9 = 0 ∧ ((44 : BitVec 8).toNat + 1) % 9 = 0 ∧ (44 : BitVec 8).toNat + 1 = 45
    ∧ ((251 : BitVec 8).toNat + 1) % 9 = 0 ∧ (251 : BitVec 8).toNat < 255 := by decide

theorem witness_SwDataBitIsStored : configOk Config.default
    ∧ bufferOk Config.default.sw.w { lane 0 0 [] with state := .phaseA, nbits := 0 }
    ∧ bufferOk Config.default.sw.w { laneAt 24 7 1 with state := .phaseB, nbits := 254 }
    ∧ ((0 : BitVec 8).toNat + 1) % 9 ≠ 0 ∧ ((254 : BitVec 8).toNat + 1) % 9 ≠ 0 ∧ (254 : BitVec 8).toNat < 255 := by decide

/-- The hypotheses of the micro-operation statements, and both clauses of APPEND and MANCH. -/
theorem witness_micro_operations : configOk Config.default ∧ bufferOk (Config.default.lane .ws).w (laneAt 24 7 0xFE)
    ∧ bufferOk (Config.default.lane .ws).w (laneAt 25 0 0xFE) ∧ (laneAt 24 7 0xFE).pos.toNat < 25
    ∧ (laneAt 25 0 0xFE).pos.toNat = 25 := by decide

theorem witness_AppendMicroOperation : configOk (on .ws (laneAt 25 0 1)).cfg
    ∧ bufferOk ((on .ws (laneAt 25 0 1)).cfg.lane .ws).w ((on .ws (laneAt 25 0 1)).lane .ws) := by decide
theorem witness_ManchMicroOperation : configOk (on .sw (laneAt 24 7 1)).cfg
    ∧ bufferOk ((on .sw (laneAt 24 7 1)).cfg.lane .sw).w ((on .sw (laneAt 24 7 1)).lane .sw) := by decide
theorem witness_PadMicroOperation : configOk (on .sec (laneAt 24 1 1)).cfg
    ∧ bufferOk ((on .sec (laneAt 24 1 1)).cfg.lane .sec).w ((on .sec (laneAt 24 1 1)).lane .sec) := by decide
theorem witness_RevbMicroOperation : configOk (on .em (laneAt 25 0 1)).cfg
    ∧ bufferOk ((on .em (laneAt 25 0 1)).cfg.lane .em).w ((on .em (laneAt 25 0 1)).lane .em) := by decide
theorem witness_RevnMicroOperation : configOk (on .em (laneAt 24 6 1)).cfg
    ∧ bufferOk ((on .em (laneAt 24 6 1)).cfg.lane .em).w ((on .em (laneAt 24 6 1)).lane .em) := by decide
theorem witness_InvertMicroOperation : configOk (on .sec (laneAt 25 0 1)).cfg
    ∧ bufferOk ((on .sec (laneAt 25 0 1)).cfg.lane .sec).w ((on .sec (laneAt 25 0 1)).lane .sec) := by decide

/-- ALIGN: 8 padded bytes against 5 and 7 (truncated) and 8 and 0 (not). -/
theorem witness_AlignMicroOperation : configOk Config.default ∧ bufferOk 8 (lane 7 3 []) ∧ paddedLen (lane 7 3 []) = 8
    ∧ 0 < (7 : BitVec 5).toNat ∧ (7 : BitVec 5).toNat < paddedLen (lane 7 3 []) ∧ (0 : BitVec 5).toNat = 0
    ∧ paddedLen (lane 7 3 []) ≤ (8 : BitVec 5).toNat := by decide

/-- ADMIT: a full buffer; the empty packet with its checksum 0xFFFF on record, 5 and 6 tenths later. -/
theorem witness_AdmitMicroOperation : (laneAt 25 0 1).pos.toNat ≤ 25
    ∧ ([] : List Byte).foldl (crcUpdate .default) 0xFFFF = 0xFFFF
    ∧ ¬ (Config.default.sw.minGap.toNat < elapsed 16 5 0) ∧ Config.default.sw.minGap.toNat < elapsed 16 6 0 := by decide

theorem witness_ElapsedIsModular : 2 < 2 ^ 16 ∧ 65535 < 2 ^ 16 := by decide

theorem witness_SlidingWindowSuppresses : Config.default.sw.minCount = 0
    ∧ withinWindow 16 Config.default.sw 1003 [1008, 1013] = true := by decide

theorem witness_RepeatIsReportedOnce : 0 < ({ Config.default.sw with minCount := 254 } : LaneConfig).minCount.toNat
    ∧ ({ Config.default.sw with minCount := 254 } : LaneConfig).minCount.toNat < 255
    ∧ withinWindow 16 { Config.default.sw with minCount := 254 } 65534 [2, 7] = true := by decide

/-- A lane in Done; a step that goes on; an APPEND, and an ADMIT on another lane; the least illegal host word. -/
theorem witness_DedupRecordKeptWithoutAdmit :
    laneFeed Config.default .em 0 .short { Lane.powerOn with state := .done } = .ok { Lane.powerOn with state := .done }
    ∧ (∀ l1, laneStep Config.default .em .short Lane.powerOn ≠ .complete l1)
    ∧ laneFeed Config.default .em 0 .short Lane.powerOn = .ok { Lane.powerOn with run := 1 }
    ∧ (Instr.admitPacket .sec ≠ .admitPacket .em ∧ ¬ PulseCompletes (.admitPacket .sec) .em State.reset
      ∧ ∃ t, exec (.admitPacket .sec) State.reset = .next t)
    ∧ (Instr.append .em true ≠ .admitPacket .em ∧ ¬ PulseCompletes (.append .em true) .em State.reset
      ∧ ∃ t, exec (.append .em true) State.reset = .next t)
    ∧ 4 * 2 ^ (16 + 4) ≤ 0x400000 ∧ 0x400000 < 2 ^ (16 + 8)
    ∧ ∃ t, step { State.reset with inbox := [⟨0, .host 0x400000⟩] } = .next t := by
  have no : ∀ i, (∀ width, i ≠ .feed width) → (∀ p st c, i ≠ keyInstr p st c) → ¬ PulseCompletes i .em State.reset := by
    rintro i hf hk (⟨width, -, rfl, -⟩ | ⟨st, c, -, rfl, -⟩)
    exacts [hf _ rfl, hk _ _ _ rfl]
  have key : ∀ p st c, encode 16 (keyInstr p st c) = .key (keyCode p st c) := by
    intro p st c; cases p <;> cases st <;> cases c <;> rfl
  refine ⟨rfl, nofun, rfl, ⟨nofun, no _ nofun fun p st c h => ?_, _, rfl⟩, ⟨nofun, no _ nofun fun p st c h => ?_, _, rfl⟩,
    by decide, by decide, _, rfl⟩
  all_goals
    replace h := congrArg (encode 16) h
    rw [key] at h
    cases h

/-- Lane EM with nine bytes comes to hold them by a gap. -/
def emFull : State := on .em { lane 9 0 [0x01] with state := .confirmed }

theorem witness_PacketHeldOnlyWhenAdmitted : buffersInv emFull ∧ (emFull.lane .em).state ≠ .done
    ∧ ∃ t, exec (.feed 1500) emFull = .next t ∧ (t.lane .em).state = .done :=
  ⟨⟨by decide, by decide, by decide, by decide, by decide⟩, by decide,
    stateOr emFull (exec (.feed 1500) emFull), rfl, by decide +kernel⟩

/-- A gap after 36 bits of 0 on lane SEC, without post-processing and with each of the two. -/
theorem witness_SecPacketsPassTheCheck : ∀ post ∈ [Post.none, .revb, .revn],
    let cfg := { Config.default with sec := { Config.default.sec with post := post } }
    configOk cfg ∧ bufferOk cfg.sec.w (lane 5 1 []) ∧ (lane 5 1 []).state ≠ .done
    ∧ (laneFeed cfg .sec 9 .gap (lane 5 1 [])).map Lane.state = .ok .done := by decide +kernel

/-- A gap after 44 raw bits on lane SW. -/
theorem witness_SwPacketsHaveFiveBytes : configOk Config.default
    ∧ laneInv Config.default .sw { lane 5 0 [0x12] with state := .confirmed, nbits := 44, run := 21 }
    ∧ Config.default.sw.w = 8
    ∧ ∃ l', laneFeed Config.default .sw 9 .gap { lane 5 0 [0x12] with state := .confirmed, nbits := 44, run := 21 } = .ok l'
        ∧ l'.state = .done :=
  ⟨by decide, by decide, rfl, _, rfl, by decide +kernel⟩

theorem witness_ManchAppendsRunningXor : ∃ l', manchAll 8 [true, false, false] Lane.powerOn = .ok l' := ⟨_, rfl⟩

/-- Seven bits into the last slot. -/
theorem witness_CompletedSlotLayout : [true, false, true, true, false, false, true].length = 7 ∧ bufferOk 7 (lane 24 0 [])
    ∧ (lane 24 0 []).pos.toNat < 25 ∧ (lane 24 0 []).bits = 0 ∧ (lane 24 0 []).data.read 24 = 0x00 := by decide

theorem witness_PowerOnValues : ∃ t, step State.reset = .next t := ⟨_, rfl⟩

/-- A state in the middle of a message, with a pulse to come. -/
def midMessage : State :=
  { on .ws { lane 0 7 [0x42] with state := .phaseB, nbits := 8, run := 14, prev := false } with
    inbox := [⟨70000, .host 0x100190⟩, ⟨1, .pulse .sec .gap⟩] }

theorem witness_StepKeepsBlockInvariant : blockInv midMessage ∧ nextIsNoMicro midMessage = true
    ∧ ∃ t, step midMessage = .next t :=
  ⟨⟨by decide, by decide, by decide, by decide, by decide⟩, rfl, _, rfl⟩

theorem witness_StepKeepsBuffersInvariant : buffersInv midMessage ∧ ∃ t, step midMessage = .next t :=
  ⟨⟨by decide, by decide, by decide, by decide, by decide⟩, _, rfl⟩

theorem witness_StepAlwaysCompletes : buffersInv (on .sec { laneAt 25 0 1 with state := .rsv7, nbits := 255 }) :=
  ⟨by decide, by decide, by decide, by decide, by decide⟩

theorem witness_OutputsShowHeldPacket : (on .sw { lane 5 0 [1] with state := .done }).avail .sw = true := by decide

theorem witness_CanonicalMemoryLaws : Memory.wf [(0, 1), (24, 255)] = true ∧ 24 < 25 := by decide

/-- Program P0's first line (TIME 0, FEED 400 as PULSES) and a bit of lane WS, expanded. -/
theorem test_assemble : assemble 16 [.pulses .sec [.short], .time 50, .bits .ws [true], .op (.take .ws)]
    = [⟨0, .host 0x100190⟩, ⟨50, .host 0x100190⟩, ⟨50, .host 0x100320⟩, ⟨50, .host 0x280000⟩] := by decide

/-- The last free bit on each lane; raw bit 48 is no marker and no parity bit. -/
theorem witness_BitPulsesStoreTheBit : configOk Config.default
    ∧ bufferOk (Config.default.lane .sec).w { laneAt 24 6 1 with state := .confirmed }
    ∧ bufferOk (Config.default.lane .ws).w { laneAt 24 7 1 with state := .confirmed, nbits := 47 }
    ∧ bufferOk (Config.default.lane .sw).w { laneAt 24 7 1 with state := .confirmed, nbits := 47 }
    ∧ (47 : BitVec 8).toNat < 48 ∧ ((47 : BitVec 8).toNat + 1) % 5 ≠ 0 ∧ ((47 : BitVec 8).toNat + 1) % 9 ≠ 0 := by decide

end Sys2Proof.Tests
end

section
/-!
PROOF. What an instruction leaves of a lane, said once (`exec_effect`), and from it the invariants of
spec/10_state.md (R41), the independence of the lanes (R20) and who writes the DedupRecord (R44).
-/

namespace Sys2Proof.Machine

/-! ### Buffers in canonical form (R40, R60) -/

theorem Memory.read_cons_self (j : Nat) (b : Byte) (m : Memory) : Memory.read ((j, b) :: m) j = b := by
  simp [Memory.read]

theorem Memory.read_cons_of_ne {i j : Nat} (b : Byte) (m : Memory) (h : i ≠ j) :
    Memory.read ((j, b) :: m) i = Memory.read m i := by
  rw [Memory.read, if_neg (Ne.symm h)]

/-- A canonical buffer that reads 0 everywhere lists nothing. -/
theorem Memory.eq_nil_of_read {lo : Nat} {m : Memory} (h : Memory.wfFrom lo m = true)
    (hr : ∀ i, m.read i = 0) : m = [] := by
  cases m with
  | nil => rfl
  | cons c m =>
    obtain ⟨j, b⟩ := c
    obtain ⟨-, -, hb, -⟩ := Memory.wfFrom_cons.1 h
    exact absurd (Memory.read_cons_self j b m ▸ hr j) hb

/-- The first listed slot of a canonical buffer is the first slot that does not read 0. -/
theorem Memory.head_le_of_read {lo j j' : Nat} {b b' : Byte} {m m' : Memory}
    (h : Memory.wfFrom lo ((j, b) :: m) = true) (h' : Memory.wfFrom lo ((j', b') :: m') = true)
    (hr : ∀ i, Memory.read ((j, b) :: m) i = Memory.read ((j', b') :: m') i) : j' ≤ j := by
  obtain ⟨-, -, hb, -⟩ := Memory.wfFrom_cons.1 h
  obtain ⟨-, hj', hb', hm'⟩ := Memory.wfFrom_cons.1 h'
  by_contra hlt
  have hz : Memory.read ((j', b') :: m') j = 0 :=
    Memory.read_below (Memory.wfFrom_cons.2 ⟨le_refl j', hj', hb', hm'⟩) (by omega)
  exact hb (by rw [← Memory.read_cons_self j b m, hr, hz])

theorem Memory.eq_of_read_from {lo : Nat} {m m' : Memory} (h : Memory.wfFrom lo m = true)
    (h' : Memory.wfFrom lo m' = true) (hr : ∀ i, m.read i = m'.read i) : m = m' := by
  induction m generalizing lo m' with
  | nil => exact (Memory.eq_nil_of_read h' fun i => (hr i).symm).symm
  | cons c m ih =>
    obtain ⟨j, b⟩ := c
    cases m' with
    | nil => exact Memory.eq_nil_of_read h hr
    | cons c' m' =>
      obtain ⟨j', b'⟩ := c'
      obtain rfl : j = j' :=
        Nat.le_antisymm (Memory.head_le_of_read h' h fun i => (hr i).symm) (Memory.head_le_of_read h h' hr)
      obtain rfl : b = b' := by simpa only [Memory.read_cons_self] using hr j
      obtain ⟨-, -, -, hm⟩ := Memory.wfFrom_cons.1 h
      obtain ⟨-, -, -, hm'⟩ := Memory.wfFrom_cons.1 h'
      have htail : ∀ i, Memory.read m i = Memory.read m' i := fun i => by
        rcases Nat.lt_or_ge i (j + 1) with hi | hi
        · rw [Memory.read_below hm hi, Memory.read_below hm' hi]
        · simpa only [Memory.read_cons_of_ne b _ (show i ≠ j by omega)] using hr i
      rw [ih hm hm' htail]

/-! ### What an instruction leaves of a lane -/

/-- The micro-operations of the Bit Accumulator, as instructions to lane `p` with `w` bits per byte (R82). -/
inductive AccumulatorOp (w : Nat) (p : LaneId) : Instr → (Lane → Res Lane) → Prop
  | append (v : Bool) : AccumulatorOp w p (.append p v) (Machine.append w v)
  | manch (raw : Bool) : AccumulatorOp w p (.manch p raw) (Machine.manch w raw)
  | pad : AccumulatorOp w p (.pad p) (Machine.pad w)
  | align (max : BitVec 5) : AccumulatorOp w p (.align p max) (Machine.align w max)
  | revb : AccumulatorOp w p (.revb p) Machine.revb
  | revn : AccumulatorOp w p (.revn p) Machine.revn
  | invert : AccumulatorOp w p (.invert p) fun l => .ok (Machine.invert l)

/-- Instruction `i` gives lane `p` a pulse of class `c`, which the lane takes in `state` `st` (R110, R83). -/
inductive GivesPulse (s : State) (p : LaneId) : Instr → DecState → PulseClass → Prop
  | feed (width : Nat) : GivesPulse s p (.feed width) (s.lane p).state (classify s.cfg p width)
  | key (st : DecState) (c : PulseClass) : GivesPulse s p (keyInstr p st c) st c

/-- Everything that instruction `i`, run in `s`, can leave of lane `p`. -/
inductive LaneAfter (s : State) (p : LaneId) (i : Instr) : Lane → Prop
  | same : LaneAfter s p i (s.lane p)
  | reset : LaneAfter s p i (s.lane p).reset
  | pulse {st : DecState} {c : PulseClass} {l : Lane} (hi : GivesPulse s p i st c)
      (hl : laneFeed s.cfg p s.now c { s.lane p with state := st } = .ok l) : LaneAfter s p i l
  | micro {f : Lane → Res Lane} {l : Lane} (hi : AccumulatorOp (s.cfg.lane p).w p i f) (hl : f (s.lane p) = .ok l) :
      LaneAfter s p i l
  | admitted (d : DedupRecord) (hi : i = .admitPacket p) : LaneAfter s p i { s.lane p with dedup := d }

/-- Instruction `i` takes `s` to `t`: the configuration stays, and each lane is one of its `LaneAfter`. -/
def Effect (i : Instr) (s t : State) : Prop := t.cfg = s.cfg ∧ ∀ p, LaneAfter s p i (t.lane p)

theorem Effect.of_answer (i : Instr) (s : State) (r : Reply) : Effect i s (s.answer r) :=
  ⟨rfl, fun p => by simpa using LaneAfter.same⟩

theorem Effect.of_setLane {i : Instr} {s : State} {q : LaneId} {l : Lane} (r : Reply) (h : LaneAfter s q i l) :
    Effect i s ((s.setLane q l).answer r) := by
  refine ⟨by simp, fun p => ?_⟩
  by_cases hp : p = q
  · subst hp; simpa using h
  · simpa [State.lane_setLane_of_ne _ _ hp] using LaneAfter.same

/-- FEED performs every lane's own lane-level FEED (R110). -/
theorem execFeed_lane {width : Nat} {s t : State} (h : execFeed width s = .next t) :
    t.cfg = s.cfg ∧ ∀ p, laneFeed s.cfg p s.now (classify s.cfg p width) (s.lane p) = .ok (t.lane p) := by
  obtain ⟨l1, l2, l3, l4, h1, h2, h3, h4, rfl⟩ := execFeed_next h
  refine ⟨rfl, fun p => ?_⟩
  cases p
  exacts [h1, h2, h3, h4]

theorem execFeed_effect {width : Nat} {s t : State} (h : execFeed width s = .next t) : Effect (.feed width) s t :=
  let ⟨hcfg, hl⟩ := execFeed_lane h
  ⟨hcfg, fun p => .pulse (.feed width) (hl p)⟩

theorem execTake_effect {p : LaneId} {s t : State} (h : execTake p s = .next t) : Effect (.take p) s t := by
  simp only [execTake] at h
  split at h
  · split at h
    · cases h
    · cases h; exact .of_setLane _ .reset
  · cases h; exact .of_answer _ s _

theorem micro_effect {i : Instr} {p : LaneId} {f : Lane → Res Lane} {s t : State}
    (hi : AccumulatorOp (s.cfg.lane p).w p i f) (h : s.micro p f = .next t) : Effect i s t := by
  obtain ⟨l, hl, rfl⟩ | ⟨c, -, rfl⟩ := micro_next h
  · exact .of_setLane _ (.micro hi hl)
  · exact .of_setLane _ .reset

/-- ADMIT writes nothing but the DedupRecord (R151). -/
theorem admitLane_ok {cfg : Config} {p : LaneId} {now : Nat} {l : Lane} {r : Bool × Lane}
    (h : admitLane cfg p now l = .ok r) : ∃ d, r.2 = { l with dedup := d } := by
  unfold admitLane at h
  split at h
  · cases h
  · cases h; exact ⟨_, rfl⟩

theorem execAdmit_effect {p : LaneId} {s t : State} (h : execAdmit p s = .next t) : Effect (.admitPacket p) s t := by
  unfold execAdmit at h
  split at h
  case h_1 accept l hl =>
    obtain ⟨d, rfl⟩ := admitLane_ok hl
    cases h; exact .of_setLane _ (.admitted d rfl)
  case h_2 => cases h; exact .of_setLane _ .reset
  case h_3 => cases h

/-- A transition key that answers leaves in its lane what the lane-level FEED made of it (R83). -/
theorem transition_next {p : LaneId} {st : DecState} {c : PulseClass} {s t : State}
    (h : transition p st c s = .next t) :
    ∃ l r, laneFeed s.cfg p s.now c { s.lane p with state := st } = .ok l ∧ t = (s.setLane p l).answer r := by
  unfold transition at h
  split at h
  case h_1 l hl => cases h; exact ⟨l, _, hl, rfl⟩
  case h_2 => cases h

theorem transition_effect {p : LaneId} {st : DecState} {c : PulseClass} {s t : State}
    (h : transition p st c s = .next t) : Effect (keyInstr p st c) s t := by
  obtain ⟨l, r, hl, rfl⟩ := transition_next h
  exact .of_setLane r (.pulse (.key st c) hl)

/-- What every instruction does to the block, said once (R80). -/
theorem exec_effect {i : Instr} {s t : State} (h : exec i s = .next t) : Effect i s t := by
  induction i using instr_cases with
  | nop => cases h; exact .of_answer _ s _
  | feed width => exact execFeed_effect h
  | take p => exact execTake_effect h
  | reset p => cases h; exact .of_setLane _ .reset
  | reserved4 => cases h; exact .of_answer _ s _
  | reserved5 => cases h; exact .of_answer _ s _
  | reserved6 => cases h; exact .of_answer _ s _
  | reserved7 => cases h; exact .of_answer _ s _
  | append p v => exact micro_effect (.append v) h
  | manch p raw => exact micro_effect (.manch raw) h
  | pad p => exact micro_effect .pad h
  | align p max => exact micro_effect (.align max) h
  | revb p => exact micro_effect .revb h
  | revn p => exact micro_effect .revn h
  | invert p => exact micro_effect .invert h
  | admitPacket p => exact execAdmit_effect h
  | key p st c => exact transition_effect (exec_keyInstr p st c s ▸ h)

/-! ### The buffers are kept by every step (R41 (I-a) to (I-c), R60) -/

theorem append_bufferOk {w : Nat} {v : Bool} {l l' : Lane} (hw : w = 7 ∨ w = 8) (h : bufferOk w l)
    (e : append w v l = .ok l') : bufferOk w l' := by
  have hle := h.1.1
  rcases Nat.lt_or_eq_of_le hle with hp | hp
  · obtain ⟨l1, e1, ok, -⟩ := append_spec (v := v) hw h hp
    cases e1.symm.trans e; exact ok
  · cases (append_full hp).symm.trans e

/-- A micro-operation that raises nothing keeps the buffer in order. -/
theorem AccumulatorOp.bufferOk {w : Nat} {p : LaneId} {i : Instr} {f : Lane → Res Lane} {l l' : Lane}
    (hf : AccumulatorOp w p i f) (hw : w = 7 ∨ w = 8) (h : Machine.bufferOk w l) (e : f l = .ok l') :
    Machine.bufferOk w l' := by
  cases hf with
  | append v => exact append_bufferOk hw h e
  | manch raw => exact append_bufferOk (l := { l with flip := flipNext l.flip raw }) hw h e
  | pad => obtain ⟨l1, e1, ok, -⟩ := pad_spec hw h; cases e1.symm.trans e; exact ok
  | align max => obtain ⟨l1, e1, ok, -⟩ := align_spec (max := max) hw h; cases e1.symm.trans e; exact ok
  | revb => obtain ⟨l1, e1, ok, -⟩ := mapCompleted_spec (f := bitrev8) h; cases e1.symm.trans e; exact ok
  | revn => obtain ⟨l1, e1, ok, -⟩ := mapCompleted_spec (f := swapNibbles) h; cases e1.symm.trans e; exact ok
  | invert => cases e; exact (invert_spec h).1

theorem LaneAfter.bufferOk {s : State} {p : LaneId} {i : Instr} {l : Lane} (ha : LaneAfter s p i l)
    (hcfg : configOk s.cfg) (h : Machine.bufferOk (s.cfg.lane p).w (s.lane p)) :
    Machine.bufferOk (s.cfg.lane p).w l := by
  cases ha with
  | same => exact h
  | reset => exact bufferOk_reset (configOk_w hcfg p) _
  | @pulse st c _ _ hl =>
    obtain ⟨l1, e1, ok⟩ := laneFeed_bufferOk (now := s.now) (c := c) (l := { s.lane p with state := st }) hcfg h
    cases e1.symm.trans hl; exact ok
  | micro hi hl => exact hi.bufferOk (configOk_w hcfg p) h hl
  | admitted d => exact h

theorem exec_buffersInv {i : Instr} {s t : State} (hs : buffersInv s) (h : exec i s = .next t) : buffersInv t := by
  obtain ⟨hcfg, hb⟩ := (buffersInv_iff s).1 hs
  obtain ⟨ecfg, hl⟩ := exec_effect h
  exact (buffersInv_iff t).2 (ecfg ▸ ⟨hcfg, fun p => (hl p).bufferOk hcfg (hb p)⟩)

theorem buffersInv_advance {s : State} (h : buffersInv s) : buffersInv s.advance := by
  rw [buffersInv_iff] at h ⊢
  simpa using h

/-! ### The invariant of a lane is kept by the reset and by a lane-level FEED (R41) -/

theorem admitRecord_lastTime (timeBits : Nat) (c : LaneConfig) (crc : Crc) (now : Nat) (d : DedupRecord) :
    (admitRecord timeBits c crc now d).2.lastTime = now := by
  unfold admitRecord; split <;> rfl

/-- A lane at its reset values has the invariant. -/
theorem LaneIsReset.laneInv {cfg : Config} {p : LaneId} {l l' : Lane} (h : LaneIsReset l l')
    (hb : bufferOk (cfg.lane p).w l') (ht : l.dedup.lastTime < 2 ^ cfg.timeBits) : Machine.laneInv cfg p l' := by
  obtain ⟨-, hpos, hbits, hflip, hst, hrun, hprev, hnbits, hpar, hext, hmt, hmv, hd⟩ := h
  have hseq : sequencingOk p l' := ⟨by rw [hst]; cases p <;> rfl, by simp [hst], by simp [hrun], hext⟩
  have hun : unusedOk p l' :=
    ⟨hflip, fun _ => hrun, fun _ => ⟨hprev, hmt, hmv⟩, fun _ _ => hnbits, fun _ => hpar⟩
  have hcnt : countOk (cfg.lane p).w p l' := by simp [countOk, collected, hpos, hbits, hnbits]
  exact ⟨hb, hseq, hun, hcnt, hd ▸ ht⟩

theorem laneInv_reset {cfg : Config} {p : LaneId} {l : Lane} (hcfg : configOk cfg)
    (ht : l.dedup.lastTime < 2 ^ cfg.timeBits) : laneInv cfg p l.reset :=
  (laneIsReset_reset l).laneInv (bufferOk_reset (configOk_w hcfg p) l) ht

/-- A packet handed over is held with the invariant, or its lane is reset (R115). -/
theorem HandedOver.laneInv {cfg : Config} {p : LaneId} {now : Nat} {l l' : Lane} (h : HandedOver cfg p now l l')
    (hl : completedOk cfg p l) (hb : bufferOk (cfg.lane p).w l') (hnow : now < 2 ^ cfg.timeBits) :
    Machine.laneInv cfg p l' := by
  obtain ⟨hheld, hdropped⟩ := h
  obtain ⟨-, hlen, hrun, hext, hun, -⟩ := hl
  cases hr : (admitRecord cfg.timeBits (cfg.lane p) (crcOf cfg.crc (completedPacket (cfg.lane p) l)) now l.dedup).1 with
  | false => exact (hdropped hr).laneInv hb (by simpa only [admitRecord_lastTime] using hnow)
  | true =>
    obtain ⟨hst, -, hpos, hbits, hd, -, hregs⟩ := hheld hr
    rw [← hregs] at hrun hext hun
    have hseq : sequencingOk p l' := ⟨by rw [hst]; cases p <;> rfl, fun _ => ⟨hbits, hpos ▸ hlen⟩, hrun, hext⟩
    have hcnt : countOk (cfg.lane p).w p l' := ⟨fun _ h => absurd hst h, fun _ h => absurd hst h⟩
    exact ⟨hb, hseq, hun, hcnt, by rw [hd, admitRecord_lastTime]; exact hnow⟩

/-- A lane-level FEED keeps the invariant of its lane (R41, R111). -/
theorem laneFeed_laneInv {cfg : Config} {p : LaneId} {now : Nat} {c : PulseClass} {l l' : Lane} (hcfg : configOk cfg)
    (hnow : now < 2 ^ cfg.timeBits) (h : laneInv cfg p l) (e : laneFeed cfg p now c l = .ok l') :
    laneInv cfg p l' := by
  obtain ⟨-, rfl⟩ | ⟨hd, hs⟩ | ⟨hd, l1, hs, hc⟩ | ⟨-, rfl⟩ := laneFeed_cases e
  · exact h
  · exact (laneStep_inv hcfg h hd).of_cont hs
  · have hl1 := (laneStep_inv hcfg h hd).of_complete hs
    obtain ⟨l2, e2, hho, hb⟩ := completeLane_spec (now := now) (configOk_w hcfg p) hl1.1
    cases e2.symm.trans hc
    exact hho.laneInv hl1 hb hnow
  · obtain ⟨-, -, -, -, ht⟩ := h
    exact laneInv_reset hcfg ht

/-! ### What the ports present -/

/-- The operations the host command port accepts (R84): `op` 0x0 to 0x7. -/
def isHostOp : Instr → Bool
  | .nop | .feed _ | .take _ | .reset _ | .reserved4 | .reserved5 | .reserved6 | .reserved7 => true
  | _ => false

theorem isHostOp_keyInstr (p : LaneId) (st : DecState) (c : PulseClass) : isHostOp (keyInstr p st c) = false := by
  cases p <;> cases st <;> cases c <;> rfl

theorem AccumulatorOp.not_isHostOp {w : Nat} {p : LaneId} {i : Instr} {f : Lane → Res Lane}
    (h : AccumulatorOp w p i f) : isHostOp i = false := by
  cases h <;> rfl

theorem GivesPulse.state_of_isHostOp {s : State} {p : LaneId} {i : Instr} {st : DecState} {c : PulseClass}
    (h : GivesPulse s p i st c) (hi : isHostOp i = true) : st = (s.lane p).state := by
  cases h with
  | feed => rfl
  | key => simp [isHostOp_keyInstr] at hi

theorem decodeHost_isHostOp {widthBits w : Nat} {i : Instr} (h : decodeHost widthBits w = .ok i) :
    isHostOp i = true := by
  unfold decodeHost at h
  split at h
  · rename_i hop
    unfold decodeCommand at h
    generalize w / 2 ^ (widthBits + 4) = op at hop h
    interval_cases op <;> cases h <;> rfl
  · cases h

/-- The pulse a lane receives is decoded to the key of its state (R83). -/
theorem decode_keyCode (widthBits : Nat) (p : LaneId) (st : DecState) (c : PulseClass) :
    decode widthBits (.key (keyCode p st c)) = .ok (keyInstr p st c) := by
  cases p <;> cases st <;> cases c <;> rfl

theorem portWord_of_lt {widthBits w : Nat} (h : w < 2 ^ (widthBits + 8)) : portWord widthBits w = w :=
  Nat.mod_eq_of_lt h

theorem step_of_configOk {s : State} (h : configOk s.cfg) : step s = runFetched (fetch s) s.advance := if_pos h

theorem fetch_cons {s : State} {r : Request} {rest : List Request} (h : s.inbox = r :: rest) :
    fetch s = fetchItem s r.item := by
  simp only [fetch, h]

theorem fetch_idle {s : State} (h : s.inbox = []) : fetch s = .run .nop := by
  simp only [fetch, h]

theorem advance_cons {s : State} {r : Request} {rest : List Request} (h : s.inbox = r :: rest) :
    s.advance = { s with inbox := rest, now := r.now % 2 ^ s.cfg.timeBits } := by
  simp only [State.advance, h]

theorem advance_idle {s : State} (h : s.inbox = []) : s.advance = s := by
  simp only [State.advance, h]

/-- The step of a request whose item stands for instruction `i` is `exec` of `i` (R70). -/
theorem step_of_fetchItem {s : State} {n : Nat} {item : Item} {rest : List Request} {i : Instr}
    (hcfg : configOk s.cfg) (hin : s.inbox = ⟨n, item⟩ :: rest) (hi : fetchItem s item = .run i) :
    step s = exec i { s with inbox := rest, now := n % 2 ^ s.cfg.timeBits } := by
  rw [step_of_configOk hcfg, fetch_cons hin, hi, advance_cons hin, runFetched]

theorem fetchItem_pulse (s : State) (p : LaneId) (c : PulseClass) :
    fetchItem s (.pulse p c) = .run (keyInstr p (s.lane p).state c) := by
  rw [fetchItem, decode_keyCode, Fetched.ofDecode]

theorem fetchItem_host {s : State} {w : Nat} {i : Instr} (hw : w < 2 ^ (s.cfg.widthBits + 8))
    (h : decodeHost s.cfg.widthBits w = .ok i) : fetchItem s (.host w) = .run i := by
  rw [fetchItem, portWord_of_lt hw, h, Fetched.ofDecode]

theorem fetchItem_micro {s : State} {w : Nat} {i : Instr} (hw : w < 2 ^ (s.cfg.widthBits + 8))
    (h : decode s.cfg.widthBits (.command w) = .ok i) : fetchItem s (.micro w) = .run i := by
  rw [fetchItem, portWord_of_lt hw, h, Fetched.ofDecode]

/-- A word with `op` 0x4 to 0xF on the host port is answered ILLEGAL, as one of the reserved operations or as a word the
port refuses (R87; log 6). -/
theorem runFetched_host_illegal {s : State} {w : Nat} (s' : State) (hlo : 4 * 2 ^ (s.cfg.widthBits + 4) ≤ w)
    (hhi : w < 2 ^ (s.cfg.widthBits + 8)) : runFetched (fetchItem s (.host w)) s' = .next s'.answerIllegal := by
  have hop : 4 ≤ w / 2 ^ (s.cfg.widthBits + 4) := (Nat.le_div_iff_mul_le (Nat.two_pow_pos _)).2 hlo
  rw [fetchItem, portWord_of_lt hhi, decodeHost]
  split
  · rename_i hlt
    unfold decodeCommand
    generalize w / 2 ^ (s.cfg.widthBits + 4) = op at hop hlt
    interval_cases op <;> rfl
  · rfl

/-- What the host port presents is an operation it accepts, or a word it refuses (R84, R87). -/
theorem fetchItem_host_cases (s : State) (w : Nat) :
    fetchItem s (.host w) = .illegal ∨ ∃ i, isHostOp i = true ∧ fetchItem s (.host w) = .run i := by
  rw [fetchItem]
  cases hd : decodeHost s.cfg.widthBits (portWord s.cfg.widthBits w) with
  | error _ => exact .inl rfl
  | ok i => exact .inr ⟨i, decodeHost_isHostOp hd, rfl⟩

/-! ### The invariant of the block is kept by host operations and pulses (R41) -/

/-- A host operation gives a lane pulses in its present state alone and is no micro-operation, so it keeps the lane's
invariant. -/
theorem LaneAfter.laneInv_of_isHostOp {s : State} {p : LaneId} {i : Instr} {l : Lane} (ha : LaneAfter s p i l)
    (hcfg : configOk s.cfg) (hnow : s.now < 2 ^ s.cfg.timeBits) (h : laneInv s.cfg p (s.lane p))
    (hi : isHostOp i = true) : laneInv s.cfg p l := by
  cases ha with
  | same => exact h
  | reset => obtain ⟨-, -, -, -, ht⟩ := h; exact laneInv_reset hcfg ht
  | pulse hp hl =>
    obtain rfl := hp.state_of_isHostOp hi
    exact laneFeed_laneInv hcfg hnow h hl
  | micro hm => simp [hm.not_isHostOp] at hi
  | admitted d he => simp [he, isHostOp] at hi

theorem exec_hostOp_blockInv {i : Instr} {s t : State} (hs : blockInv s) (hnow : s.now < 2 ^ s.cfg.timeBits)
    (hi : isHostOp i = true) (h : exec i s = .next t) : blockInv t := by
  obtain ⟨hcfg, hinv⟩ := (blockInv_iff s).1 hs
  obtain ⟨ecfg, hl⟩ := exec_effect h
  exact (blockInv_iff t).2 (ecfg ▸ ⟨hcfg, fun p => (hl p).laneInv_of_isHostOp hcfg hnow (hinv p) hi⟩)

theorem blockInv_setLane_answer {s : State} {p : LaneId} {l : Lane} (r : Reply) (hs : blockInv s)
    (hl : laneInv s.cfg p l) : blockInv ((s.setLane p l).answer r) := by
  obtain ⟨hcfg, hinv⟩ := (blockInv_iff s).1 hs
  refine (blockInv_iff _).2 ⟨by simpa using hcfg, fun q => ?_⟩
  by_cases hq : q = p
  · subst hq; simpa using hl
  · simpa [State.lane_setLane_of_ne _ _ hq] using hinv q

/-- A pulse at a lane in its present state keeps the invariant of the block (log 8). -/
theorem transition_blockInv {p : LaneId} {c : PulseClass} {s t : State} (hs : blockInv s)
    (hnow : s.now < 2 ^ s.cfg.timeBits) (h : transition p (s.lane p).state c s = .next t) : blockInv t := by
  obtain ⟨hcfg, hinv⟩ := (blockInv_iff s).1 hs
  obtain ⟨l, r, hl, rfl⟩ := transition_next h
  exact blockInv_setLane_answer r hs (laneFeed_laneInv hcfg hnow (hinv p) hl)

theorem blockInv_advance {s : State} (h : blockInv s) : blockInv s.advance := by
  rw [blockInv_iff] at h ⊢
  simpa using h

theorem advance_now_lt {s : State} {r : Request} {rest : List Request} (h : s.inbox = r :: rest) :
    s.advance.now < 2 ^ s.advance.cfg.timeBits := by
  rw [advance_cons h]
  exact Nat.mod_lt _ (Nat.two_pow_pos _)

/-- Settles O56: the idle port changes no lane; a host word runs a host operation or is refused; a pulse runs the key of
the lane's present state. -/
theorem stepKeepsBlockInvariant : Obligations.StepKeepsBlockInvariant := by
  intro s t hs hmicro h
  obtain ⟨-, hrun⟩ := step_next h
  have hadv := blockInv_advance hs
  cases hin : s.inbox with
  | nil =>
    rw [fetch_idle hin] at hrun
    cases hrun
    exact hadv
  | cons r rest =>
    have hnow := advance_now_lt hin
    obtain ⟨n, item⟩ := r
    rw [fetch_cons hin] at hrun
    cases item with
    | host w =>
      obtain hf | ⟨i, hi, hf⟩ := fetchItem_host_cases s w
      · rw [hf] at hrun
        cases hrun
        exact hadv
      · rw [hf] at hrun
        exact exec_hostOp_blockInv hadv hnow hi hrun
    | micro w => simp [nextIsNoMicro, hin] at hmicro
    | pulse p c =>
      rw [fetchItem_pulse, runFetched, exec_keyInstr, ← State.advance_lane s p] at hrun
      exact transition_blockInv hadv hnow hrun

/-- Settles O57: a refused word changes no lane, and every instruction keeps the buffers in order. -/
theorem stepKeepsBuffersInvariant : Obligations.StepKeepsBuffersInvariant := by
  intro s t hs h
  obtain ⟨-, hrun⟩ := step_next h
  have hadv := buffersInv_advance hs
  cases hf : fetch s with
  | run i => rw [hf] at hrun; exact exec_buffersInv hadv hrun
  | illegal =>
    rw [hf] at hrun
    cases hrun
    exact hadv

/-- Settles O14: both states leave in lane `p` the result of one and the same lane-level FEED. -/
theorem feedLanesAreIndependent : Obligations.FeedLanesAreIndependent := by
  intro width p s s' t t' hcfg hnow hlane h h'
  obtain ⟨-, hl⟩ := execFeed_lane h
  obtain ⟨-, hl'⟩ := execFeed_lane h'
  have hfeed := hl p
  rw [hcfg, hnow, hlane, hl' p] at hfeed
  exact (Except.ok.inj hfeed).symm

/-! ### Who writes the DedupRecord (R44) -/

/-- A lane-level FEED whose step does not complete keeps the DedupRecord, a `Fail` included (R302). -/
theorem laneFeed_dedup {cfg : Config} {p : LaneId} {now : Nat} {c : PulseClass} {l l' : Lane}
    (e : laneFeed cfg p now c l = .ok l') (hc : l.state = .done ∨ ∀ l1, laneStep cfg p c l ≠ .complete l1) :
    l'.dedup = l.dedup := by
  obtain ⟨-, rfl⟩ | ⟨-, hs⟩ | ⟨hd, l1, hs, -⟩ | ⟨-, rfl⟩ := laneFeed_cases e
  · rfl
  · have hk := laneStep_keepsDedup cfg p c l
    rwa [hs] at hk
  · exact (hc.elim hd fun hn => hn l1 hs).elim
  · rfl

theorem AccumulatorOp.keepsDedup {w : Nat} {p : LaneId} {i : Instr} {f : Lane → Res Lane}
    (hf : AccumulatorOp w p i f) (l : Lane) : (f l).KeepsDedup l := by
  cases hf with
  | append v => exact append_keepsDedup w v l
  | manch raw => exact manch_keepsDedup w raw l
  | pad => exact pad_keepsDedup w l
  | align max => exact align_keepsDedup w max l
  | revb => exact mapCompleted_keepsDedup bitrev8 l
  | revn => exact mapCompleted_keepsDedup swapNibbles l
  | invert => rfl

/-- A pulse whose step completes is one that `PulseCompletes` names. -/
theorem GivesPulse.pulseCompletes {s : State} {p : LaneId} {i : Instr} {st : DecState} {c : PulseClass} {l1 : Lane}
    (h : GivesPulse s p i st c) (hd : st ≠ .done)
    (hs : laneStep s.cfg p c { s.lane p with state := st } = .complete l1) : PulseCompletes i p s := by
  cases h with
  | feed width => exact .inl ⟨width, l1, rfl, hd, hs⟩
  | key => exact .inr ⟨st, c, l1, rfl, hd, hs⟩

theorem LaneAfter.dedup {s : State} {p : LaneId} {i : Instr} {l : Lane} (ha : LaneAfter s p i l)
    (hadmit : i ≠ .admitPacket p) (hpulse : ¬ PulseCompletes i p s) : l.dedup = (s.lane p).dedup := by
  cases ha with
  | same => rfl
  | reset => rfl
  | @pulse st c _ hi hl =>
    exact laneFeed_dedup (l := { s.lane p with state := st }) hl
      (or_iff_not_imp_left.2 fun hd l1 hs => hpulse (hi.pulseCompletes hd hs))
  | micro hi hl =>
    have hk := hi.keepsDedup (s.lane p)
    rwa [hl] at hk
  | admitted d hi => exact absurd hi hadmit

/-- Settles O48: of what an instruction can leave of a lane, only a pulse whose step completes and ADMIT touch the
DedupRecord; a word the host port answers ILLEGAL changes no lane. -/
theorem dedupRecordKeptWithoutAdmit : Obligations.DedupRecordKeptWithoutAdmit := by
  refine ⟨fun cfg p now c l l' => laneFeed_dedup, fun i p s t hadmit hpulse h => ?_,
    fun s t n w rest hin hlo hhi h p => ?_⟩
  · obtain ⟨-, hl⟩ := exec_effect h
    exact (hl p).dedup hadmit hpulse
  · obtain ⟨-, hrun⟩ := step_next h
    rw [fetch_cons hin, runFetched_host_illegal _ hlo hhi] at hrun
    cases hrun
    simp [State.answerIllegal]

/-- Settles O60, by induction on the two buffers for the first part and by the laws of a write for the second. -/
theorem canonicalMemoryLaws : Obligations.CanonicalMemoryLaws :=
  ⟨fun _ _ => Memory.eq_of_read_from, fun _ _ _ _ hm hi => ⟨Memory.wf_write hm hi, Memory.read_write hm⟩⟩

/-- Settles O7: what each port presents is decoded to the instruction that `exec` runs. -/
theorem stepRunsDecodedInstruction : Obligations.StepRunsDecodedInstruction := by
  refine ⟨fun s n w rest i hcfg hin hw hi _ => ?host, fun s n w rest i hcfg hin hw hi _ => ?micro,
    fun s n p c rest hcfg hin => ?pulse, fun s hcfg hin => ?idle, fun s hcfg => ?refused⟩
  case host => exact step_of_fetchItem hcfg hin (fetchItem_host hw hi)
  case micro => exact step_of_fetchItem hcfg hin (fetchItem_micro hw hi)
  case pulse => exact step_of_fetchItem hcfg hin (fetchItem_pulse s p c)
  case idle => rw [step_of_configOk hcfg, fetch_idle hin, advance_idle hin, runFetched]
  case refused => exact if_neg hcfg

/-- Settles O55: the default configuration meets R11, and every lane is at its reset values. -/
theorem powerOnMeetsInvariant : Obligations.PowerOnMeetsInvariant := by
  have hcfg : configOk Config.default := by decide
  have hlane : ∀ p, laneInv Config.default p Lane.powerOn := fun p =>
    laneInv_reset (l := Lane.powerOn) hcfg (Nat.two_pow_pos _)
  exact ⟨hcfg, hlane .sec, hlane .em, hlane .ws, hlane .sw⟩

/-- Settles O59: the outputs choose by `avail`, which is the comparison of `state` with Done. -/
theorem outputsShowHeldPacket : Obligations.OutputsShowHeldPacket := by
  refine fun p s => ⟨by rw [State.avail, beq_iff_eq], fun h => ⟨?_, fun i => ?_⟩⟩
  · rw [State.pktLen, if_pos h]
  · rw [State.pktData, if_pos h]

end Sys2Proof.Machine
end

section
/-!
PROOF. The layout of a slot of spec/20_memory.md (R62, R63): the byte that a run of bits leaves when each enters at
bit 7 (`shiftAll`), and the APPENDs that fill a slot leave exactly that byte there (`appendAll_fills`).
-/

namespace Sys2Proof.Machine

/-- R62: bits entering a byte at bit 7, the first of the list first. -/
def shiftAll : List Bool → Byte → Byte
  | [], b => b
  | v :: vs, b => shiftAll vs (shiftIn v b)

theorem getLsbD_shiftIn (v : Bool) (b : Byte) {j : Nat} (hj : j < 8) :
    (shiftIn v b).getLsbD j = if j = 7 then v else b.getLsbD (j + 1) := by
  have hnew : (if v then 0x80 else 0x00 : Byte).getLsbD j = (v && decide (j = 7)) := by
    cases v
    · simp
    · interval_cases j <;> rfl
  rw [shiftIn, BitVec.getLsbD_or, BitVec.getLsbD_ushiftRight, hnew, Nat.add_comm]
  by_cases h7 : j = 7 <;> simp [h7]

/-- R63: of `n` bits that entered, the last stands in bit 7 and each earlier one a place lower; below them stand the
top bits of the old byte. -/
theorem getLsbD_shiftAll (vs : List Bool) (b : Byte) {j : Nat} (hj : j < 8) :
    (shiftAll vs b).getLsbD j
      = if j + vs.length < 8 then b.getLsbD (j + vs.length) else vs.getD (j + vs.length - 8) false := by
  induction vs generalizing b with
  | nil => simp [shiftAll, hj]
  | cons v vs ih =>
    rw [shiftAll, ih, List.length_cons, ← Nat.add_assoc]
    rcases Nat.lt_trichotomy (j + vs.length) 7 with hlt | heq | hgt
    · rw [if_pos (by omega), if_pos (by omega), getLsbD_shiftIn v b (by omega), if_neg (by omega)]
    · rw [if_pos (by omega), if_neg (by omega), heq, getLsbD_shiftIn v b (by decide), if_pos rfl, List.getD_cons_zero]
    · rw [if_neg (by omega), if_neg (by omega),
        show j + vs.length + 1 - 8 = j + vs.length - 8 + 1 by omega, List.getD_cons_succ]

theorem appendAll_of_append {w : Nat} {v : Bool} {l l' : Lane} (vs : List Bool) (h : append w v l = .ok l') :
    appendAll w (v :: vs) l = appendAll w vs l' := by
  rw [appendAll, h, Res.bind]

/-- R131, R62: as many bits as the slot still takes complete it, and their shifts are all that happens to its byte. -/
theorem appendAll_fills {w : Nat} {vs : List Bool} {l : Lane} (hw : w = 7 ∨ w = 8) (h : bufferOk w l)
    (hp : l.pos.toNat < 25) (hlen : l.bits.toNat + vs.length = w) :
    ∃ l', appendAll w vs l = .ok l' ∧ l'.pos.toNat = l.pos.toNat + 1 ∧ l'.bits = 0
      ∧ l'.data.read l.pos.toNat = shiftAll vs (l.data.read l.pos.toNat) := by
  induction vs generalizing l with
  | nil =>
    obtain ⟨⟨-, hbits, -⟩, -⟩ := h
    exact absurd hlen (Nat.ne_of_lt hbits)
  | cons v vs ih =>
    obtain ⟨l1, happ, hok, ⟨hread, hfull, hpart, -⟩, -⟩ := append_spec (v := v) hw h hp
    rw [appendAll_of_append vs happ, shiftAll]
    rw [List.length_cons] at hlen
    cases hf : fillsSlot w l with
    | true =>
      obtain ⟨hb1, hp1, -⟩ := hfull hf
      have hlast : l.bits.toNat + 1 = w := beq_iff_eq.1 hf
      obtain rfl : vs = [] := List.eq_nil_of_length_eq_zero (by omega)
      exact ⟨l1, rfl, hp1, hb1, hread⟩
    | false =>
      obtain ⟨hb1, hp1⟩ := hpart hf
      rw [← shiftIn] at hread
      rw [← hread, ← hp1]
      exact ih hok (hp1 ▸ hp) (by omega)

/-- Settles O53: the byte of the completed slot is `shiftAll` of the bits from 0x00, and with seven bits the old bit 7
is what comes to bit 0. -/
theorem completedSlotLayout : Obligations.CompletedSlotLayout := by
  intro w vs l hw hlen h hp hbits hclear
  obtain ⟨l', happ, hpos, hb, hread⟩ := appendAll_fills (vs := vs) hw h hp (by simp [hbits, hlen])
  rw [hclear] at hread
  refine ⟨l', happ, hpos, hb, fun i hi => ?top, fun h7 => ?bitZero⟩
  case top =>
    rw [hread, getLsbD_shiftAll vs _ (by omega), hlen, if_neg (by omega), show 8 - w + i + w - 8 = i by omega]
  case bitZero =>
    rw [hread, getLsbD_shiftAll vs _ (by omega), hlen, h7]
    rfl

end Sys2Proof.Machine
end

section
/-!
PROOF. The encoding of spec/30_encoding.md: a command word decodes by its four fields alone (`decode_fieldWord`), a
transition key is its three fields (`keyCode_ofCode`, `encode_keyInstr`), and what the host port answers to the `op`
values that are no operation of its own (R87).
-/

namespace Sys2Proof.Machine

/-! ### Command words (R81, R82, R84) -/

/-- A command word from its four fields, `rsv` included (R81). -/
def fieldWord (widthBits op lane rsv arg : Nat) : Nat := (op * 16 + lane * 4 + rsv) * 2 ^ widthBits + arg

/-- The table of R84: the operation an `op` value names, with the operands it takes from the other fields. -/
def opInstr (op : Nat) (p : LaneId) (arg : Nat) : Except DecodeError Instr :=
  match op with
  | 0x0 => .ok .nop
  | 0x1 => .ok (.feed arg)
  | 0x2 => .ok (.take p)
  | 0x3 => .ok (.reset p)
  | 0x4 => .ok .reserved4
  | 0x5 => .ok .reserved5
  | 0x6 => .ok .reserved6
  | 0x7 => .ok .reserved7
  | 0x8 => .ok (.append p (arg.testBit 0))
  | 0x9 => .ok (.manch p (arg.testBit 0))
  | 0xA => .ok (.pad p)
  | 0xB => .ok (.align p (BitVec.ofNat 5 arg))
  | 0xC => .ok (.revb p)
  | 0xD => .ok (.revn p)
  | 0xE => .ok (.invert p)
  | 0xF => .ok (.admitPacket p)
  | _ => .error .wordTooWide

theorem decodeCommand_eq_opInstr (widthBits w : Nat) :
    decodeCommand widthBits w = opInstr (w / 2 ^ (widthBits + 4)) (laneField widthBits w) (argField widthBits w) := rfl

theorem commandWord_eq_fieldWord (widthBits op lane arg : Nat) :
    commandWord widthBits op lane arg = fieldWord widthBits op lane 0 arg := commandWord_eq widthBits op lane arg

section Fields

variable {widthBits op lane rsv arg : Nat}

/-- The bits of a command word above `arg`. -/
theorem fieldWord_high (ha : arg < 2 ^ widthBits) :
    fieldWord widthBits op lane rsv arg / 2 ^ widthBits = op * 16 + lane * 4 + rsv := by
  rw [fieldWord, Nat.mul_comm, Nat.mul_add_div (Nat.two_pow_pos _), Nat.div_eq_of_lt ha, Nat.add_zero]

theorem op_fieldWord (hl : lane < 4) (hr : rsv < 4) (ha : arg < 2 ^ widthBits) :
    fieldWord widthBits op lane rsv arg / 2 ^ (widthBits + 4) = op := by
  rw [Nat.pow_add, ← Nat.div_div_eq_div_mul, fieldWord_high ha]
  omega

theorem laneField_fieldWord (hl : lane < 4) (hr : rsv < 4) (ha : arg < 2 ^ widthBits) :
    laneField widthBits (fieldWord widthBits op lane rsv arg) = .ofCode lane := by
  rw [laneField, Nat.pow_add, ← Nat.div_div_eq_div_mul, fieldWord_high ha, ← laneOfCode_mod,
    show (op * 16 + lane * 4 + rsv) / 2 ^ 2 % 4 = lane by omega]

theorem argField_fieldWord (ha : arg < 2 ^ widthBits) :
    argField widthBits (fieldWord widthBits op lane rsv arg) = arg := by
  rw [argField, fieldWord, Nat.mul_comm, Nat.mul_add_mod, Nat.mod_eq_of_lt ha]

/-- A command word decodes by its `op` to the operation with its operands; `rsv` has no part in it (R81, R84). -/
theorem decode_fieldWord (hl : lane < 4) (hr : rsv < 4) (ha : arg < 2 ^ widthBits) :
    decode widthBits (.command (fieldWord widthBits op lane rsv arg)) = opInstr op (.ofCode lane) arg := by
  rw [decode, decodeCommand_eq_opInstr, op_fieldWord hl hr ha, laneField_fieldWord hl hr ha, argField_fieldWord ha]

/-- The host command port decodes `op` 0x0 to 0x7 as the block does and accepts no other (R84, R87). -/
theorem decodeHost_fieldWord (hl : lane < 4) (hr : rsv < 4) (ha : arg < 2 ^ widthBits) :
    decodeHost widthBits (fieldWord widthBits op lane rsv arg)
      = if op < 8 then decode widthBits (.command (fieldWord widthBits op lane rsv arg))
        else .error .microOnHostPort := by
  rw [decodeHost, op_fieldWord hl hr ha, decode]

end Fields

/-- What the encoder writes for a lane and an operand decodes by the `op` value (R81 to R84). -/
theorem decode_commandWord {widthBits op arg : Nat} (p : LaneId) (ha : arg < 2 ^ widthBits) :
    decode widthBits (.command (commandWord widthBits op p.code arg)) = opInstr op p arg := by
  rw [commandWord_eq_fieldWord, decode_fieldWord (laneCode_lt p) (by decide) ha, laneOfCode_code]

/-- An operation that takes no operand is written with lane field 0 and `arg` 0. -/
theorem decode_commandWord_noArg {widthBits op : Nat} (p : LaneId) :
    decode widthBits (.command (commandWord widthBits op p.code 0)) = opInstr op p 0 :=
  decode_commandWord p (Nat.two_pow_pos _)

theorem testBit_zero_toNat (v : Bool) : v.toNat.testBit 0 = v := by cases v <;> rfl

/-- Settles O3: the decoder reads the four fields apart, and `op` alone chooses the operation. -/
theorem commandFieldsDecide : Obligations.CommandFieldsDecide := by
  intro widthBits op lane rsv arg hop hl hr ha
  have read (op : Nat) : decode widthBits (.command (fieldWord widthBits op lane rsv arg))
      = opInstr op (.ofCode lane) arg := decode_fieldWord hl hr ha
  have hbit : arg.testBit 0 = (arg % 2 == 1) := Nat.testBit_zero arg
  have hrsv := (read op).trans (decode_fieldWord (rsv := 0) hl (by decide) ha).symm
  refine ⟨hrsv, read 0x0, read 0x1, read 0x2, read 0x3, read 0x4, read 0x5, read 0x6, read 0x7, ?append, ?manch,
    read 0xA, read 0xB, read 0xC, read 0xD, read 0xE, read 0xF, decodeHost_fieldWord hl hr ha⟩
  case append => rw [← hbit]; exact read 0x8
  case manch => rw [← hbit]; exact read 0x9

/-! ### Transition keys (R83) -/

theorem stateCode_lt (st : DecState) : st.code < 8 := by cases st <;> decide

theorem classCode_lt (c : PulseClass) : c.code < 4 := by cases c <;> decide

theorem laneCode_ofCode (n : Nat) : (LaneId.ofCode n).code = n % 4 := by
  have h : n % 4 < 4 := Nat.mod_lt _ (by decide)
  unfold LaneId.ofCode
  generalize n % 4 = k at h ⊢
  interval_cases k <;> rfl

theorem stateCode_ofCode (n : Nat) : (DecState.ofCode n).code = n % 8 := by
  have h : n % 8 < 8 := Nat.mod_lt _ (by decide)
  unfold DecState.ofCode
  generalize n % 8 = k at h ⊢
  interval_cases k <;> rfl

theorem classCode_ofCode (n : Nat) : (PulseClass.ofCode n).code = n % 4 := by
  have h : n % 4 < 4 := Nat.mod_lt _ (by decide)
  unfold PulseClass.ofCode
  generalize n % 4 = k at h ⊢
  interval_cases k <;> rfl

/-- The three fields of a 7-bit key make up the key. -/
theorem keyCode_ofCode {k : Nat} (hk : k < 128) : keyCode (.ofCode (k / 32)) (.ofCode (k / 4)) (.ofCode k) = k := by
  rw [keyCode, laneCode_ofCode, stateCode_ofCode, classCode_ofCode]
  omega

/-- The lane stands in bits 6:5 of a key, the state in bits 4:2, the class in bits 1:0. -/
theorem shiftLeft_or_eq_keyCode (p : LaneId) (st : DecState) (c : PulseClass) :
    p.code <<< 5 ||| st.code <<< 2 ||| c.code = keyCode p st c := by
  have hst := stateCode_lt st
  have hc := classCode_lt c
  have hlow : st.code <<< 2 ||| c.code = 4 * st.code + c.code := by
    rw [← Nat.shiftLeft_add_eq_or_of_lt hc, Nat.shiftLeft_eq, Nat.mul_comm]
  have hlt : 4 * st.code + c.code < 2 ^ 5 := by omega
  rw [Nat.or_assoc, hlow, ← Nat.shiftLeft_add_eq_or_of_lt hlt, Nat.shiftLeft_eq, Nat.mul_comm, keyCode, Nat.add_assoc]

/-- The encoder writes the row of three fields as the key of these fields. -/
theorem encode_keyInstr (widthBits : Nat) (p : LaneId) (st : DecState) (c : PulseClass) :
    encode widthBits (keyInstr p st c) = .key (keyCode p st c) := by
  cases p <;> cases st <;> cases c <;> rfl

theorem decode_key_of_lt (widthBits : Nat) {k : Nat} (hk : k < 128) :
    decode widthBits (.key k) = .ok (keyInstr (.ofCode (k / 32)) (.ofCode (k / 4)) (.ofCode k)) := if_pos hk

theorem lt_of_decode_key {widthBits k : Nat} {i : Instr} (h : decode widthBits (.key k) = .ok i) : k < 128 := by
  by_contra hk
  cases (if_neg hk : decode widthBits (.key k) = .error .keyTooWide).symm.trans h

theorem encode_of_decode_key {widthBits k : Nat} {i : Instr} (h : decode widthBits (.key k) = .ok i) :
    encode widthBits i = .key k := by
  have hk := lt_of_decode_key h
  cases (decode_key_of_lt widthBits hk).symm.trans h
  rw [encode_keyInstr, keyCode_ofCode hk]

/-- Only the rows of the transition table are written as keys. -/
theorem decode_of_encode_key {widthBits k : Nat} {i : Instr} (h : encode widthBits i = .key k) :
    decode widthBits (.key k) = .ok i := by
  induction i using instr_cases with
  | key p st c =>
    cases (encode_keyInstr widthBits p st c).symm.trans h
    exact decode_keyCode widthBits p st c
  | _ => cases h

/-- Settles O2: a key's fields are read back from it, and the encoder writes a key for the rows of the table alone. -/
theorem keysHaveOneMeaning : Obligations.KeysHaveOneMeaning := by
  refine ⟨fun widthBits p st c => ?_, fun widthBits k i => ⟨encode_of_decode_key, decode_of_encode_key⟩,
    fun widthBits k hk => ⟨_, decode_key_of_lt widthBits hk⟩⟩
  rw [shiftLeft_or_eq_keyCode, decode_keyCode]

/-! ### Every instruction -/

/-- Settles O1: a command word is read back field by field, a transition key by its three fields. -/
theorem decodeEncodeAgree : Obligations.DecodeEncodeAgree := by
  intro widthBits i h
  induction i using instr_cases with
  | nop => exact decode_commandWord_noArg .sec
  | feed width => exact decode_commandWord .sec (of_decide_eq_true h)
  | take p => exact decode_commandWord_noArg p
  | reset p => exact decode_commandWord_noArg p
  | reserved4 => exact decode_commandWord_noArg .sec
  | reserved5 => exact decode_commandWord_noArg .sec
  | reserved6 => exact decode_commandWord_noArg .sec
  | reserved7 => exact decode_commandWord_noArg .sec
  | append p v => rw [encode, decode_commandWord p (of_decide_eq_true h), opInstr, testBit_zero_toNat]
  | manch p raw => rw [encode, decode_commandWord p (of_decide_eq_true h), opInstr, testBit_zero_toNat]
  | pad p => exact decode_commandWord_noArg p
  | align p max =>
    rw [encode, decode_commandWord p (of_decide_eq_true h), opInstr, BitVec.ofNat_toNat, BitVec.setWidth_eq]
  | revb p => exact decode_commandWord_noArg p
  | revn p => exact decode_commandWord_noArg p
  | invert p => exact decode_commandWord_noArg p
  | admitPacket p => exact decode_commandWord_noArg p
  | key p st c => rw [encode_keyInstr, decode_keyCode]

/-! ### Words that are no operation of the host port (R87) -/

/-- Settles O6: the step takes the request off the queue and answers ILLEGAL. -/
theorem hostPortRefusesOtherOps : Obligations.HostPortRefusesOtherOps := by
  intro s n w rest hcfg hin hlo hhi
  have hstep : step s = .next s.advance.answerIllegal := by
    rw [step_of_configOk hcfg, fetch_cons hin, runFetched_host_illegal _ hlo hhi]
  have hrest : s.advance.inbox = rest := by rw [advance_cons hin]
  exact ⟨_, hstep, rfl, fun p => by rw [State.answerIllegal, State.answer_lane, State.advance_lane],
    State.advance_cfg s, hrest⟩

/-- Each of the four reserved operations is the ILLEGAL answer and nothing else. -/
theorem exec_reserved {i : Instr} (s : State)
    (h : i = .reserved4 ∨ i = .reserved5 ∨ i = .reserved6 ∨ i = .reserved7) : exec i s = .next s.answerIllegal := by
  obtain rfl | rfl | rfl | rfl := h <;> rfl

/-- Settles O9: an answer changes no lane, no input and not the configuration. -/
theorem reservedAnswerIllegal : Obligations.ReservedAnswerIllegal := fun _ s h =>
  ⟨_, exec_reserved s h, ⟨fun q => State.answer_lane s _ q, rfl, rfl, rfl⟩, rfl⟩

/-! ### Samples (R90, R92) -/

/-- Settles O4: every word is evaluated by the decoder. -/
theorem sampleWordsDecode : Obligations.SampleWordsDecode :=
  ⟨rfl, rfl, rfl, rfl, rfl, rfl, rfl, rfl, rfl, rfl, rfl, rfl⟩

/-- Settles O5: on each lane each class has one width, which is compared with the default thresholds. -/
theorem representativeWidthsAreOfTheirClass : Obligations.RepresentativeWidthsAreOfTheirClass := by
  refine ⟨fun p c => ?_, by decide⟩
  cases p <;> cases c <;> decide

end Sys2Proof.Machine
end

section
/-!
PROOF. What encodes a bit (spec/30_encoding.md R92): the step that ends a bit on each lane stores it (`BitStored`), the
pulse before it, where the lane has a two-phase sampler (R171), only remembers its class, and the lane-level FEEDs of the
two put these steps after one another.
-/

namespace Sys2Proof.Machine

/-- Bit `v` is stored, the lane rests in Confirmed again, and `raw` raw bits more are counted (R131, R31). -/
def BitStored (w : Nat) (v : Bool) (raw : Nat) (l l' : Lane) : Prop :=
  AppendedBit w v l l' ∧ l'.state = .confirmed ∧ l'.dedup = l.dedup ∧ l'.nbits.toNat = l.nbits.toNat + raw

/-! ### The step that ends a bit -/

section Store

variable {w : Nat} {v : Bool} {l : Lane}

/-- R194: in Confirmed, one pulse of lane EM stores one bit. -/
theorem emBit_stores {h : Half} (hw : w = 7 ∨ w = 8) (hb : bufferOk w l) (hp : l.pos.toNat < 25)
    (hst : l.state = .confirmed) : ∃ l', emBit w h l = .cont l' ∧ BitStored w (h == .long) 0 l l' := by
  obtain ⟨l', e, -, happ, hob⟩ := append_spec (v := h == .long) hw hb hp
  obtain ⟨-, hstate, -, -, hnbits, -, -, -, -, hdedup⟩ := hob.regs
  exact ⟨l', by rw [emBit, e, Res.inStep], happ, hstate.trans hst, hdedup, congrArg BitVec.toNat hnbits⟩

/-- R175: two unequal halves are a bit of lane SEC, 1 when the second is short. -/
theorem secSecondHalf_stores {first second : Half} (hw : w = 7 ∨ w = 8) (hb : bufferOk w l) (hp : l.pos.toNat < 25)
    (hne : second ≠ first) :
    ∃ l', secSecondHalf w first second l = .cont l' ∧ BitStored w (second == .short) 0 l l' := by
  obtain ⟨l1, e, -, happ, hob⟩ := append_spec (v := second == .short) hw hb hp
  obtain ⟨-, -, -, -, hnbits, -, -, -, -, hdedup⟩ := hob.regs
  exact ⟨{ l1 with state := .confirmed }, by simp only [secSecondHalf, e, Res.inStep, if_neg hne], happ, rfl, hdedup,
    congrArg BitVec.toNat hnbits⟩

/-- The capture writes nothing but the message type (R216). -/
theorem wsCapture_eq (l : Lane) : ∃ mtype mvalid, wsCapture l = { l with mtype := mtype, mvalid := mvalid } := by
  unfold wsCapture
  split
  · exact ⟨_, _, rfl⟩
  · exact ⟨_, _, rfl⟩

/-- A message of lane WS ends by count at raw bit 49 at the earliest (R217). -/
theorem wsEndBit_of_lt (h : l.nbits.toNat < 49) : wsEndBit l = .cont { l with state := .confirmed } := by
  have hcount : wsCountMatch { l with state := .confirmed } = false := by
    simp [wsCountMatch, show l.nbits.toNat ≠ 49 by omega, show l.nbits.toNat ≠ 79 by omega]
  rw [wsEndBit, hcount]
  rfl

/-- R216, R217: a raw bit of lane WS that is no marker is stored, and before raw bit 49 the message goes on. -/
theorem wsBit_stores {marker : Bool} (hw : w = 7 ∨ w = 8) (hb : bufferOk w l) (hp : l.pos.toNat < 25)
    (hn : l.nbits.toNat < 48) (hraw : (l.nbits.toNat + 1) % 5 ≠ 0) :
    ∃ l', wsBit w marker v l = .cont l' ∧ BitStored w v 1 l l' := by
  have hsucc : (l.nbits + 1).toNat = l.nbits.toNat + 1 := toNat_succ (by omega)
  have hmarker : isMarkerBit (l.nbits + 1) = false := beq_eq_false_iff_ne.2 (hsucc ▸ hraw)
  obtain ⟨l1, e, -, happ, hob⟩ := append_spec (v := v) (l := { l with nbits := l.nbits + 1 }) hw hb hp
  obtain ⟨-, -, -, -, hnbits, -, -, -, -, hdedup⟩ := hob.regs
  have hcount : l1.nbits.toNat = l.nbits.toNat + 1 := by rw [hnbits, hsucc]
  obtain ⟨mtype, mvalid, hcap⟩ := wsCapture_eq l1
  refine ⟨{ l1 with mtype := mtype, mvalid := mvalid, state := .confirmed }, ?_, happ, rfl, hdedup, hcount⟩
  simp only [wsBit, hmarker, e, Res.inStep, hcap]
  exact wsEndBit_of_lt (l := { l1 with mtype := mtype, mvalid := mvalid }) (by simp only; omega)

/-- A message of lane SW ends by count at raw bit 45 or 54, which are parity bits (R245, R246). -/
theorem swEndBit_of_not_parity (h : l.nbits.toNat % 9 ≠ 0) : swEndBit l = .cont { l with state := .confirmed } := by
  have hcount : swCountMatch { l with state := .confirmed } = false := by
    rw [swCountMatch, beq_eq_false_iff_ne]
    simp only [swLen, swLenExt]
    split <;> omega
  rw [swEndBit, hcount]
  rfl

/-- R245: a raw bit of lane SW that is no parity bit is stored. -/
theorem swBit_stores (hw : w = 7 ∨ w = 8) (hb : bufferOk w l) (hp : l.pos.toNat < 25) (hn : l.nbits.toNat < 255)
    (hraw : (l.nbits.toNat + 1) % 9 ≠ 0) : ∃ l', swBit w v l = .cont l' ∧ BitStored w v 1 l l' := by
  have hsucc : (l.nbits + 1).toNat = l.nbits.toNat + 1 := toNat_succ hn
  have hparity : isParityBit (l.nbits + 1) = false := beq_eq_false_iff_ne.2 (hsucc ▸ hraw)
  obtain ⟨l1, e, -, happ, hob⟩ := append_spec (v := v) (l := { l with nbits := l.nbits + 1 }) hw hb hp
  obtain ⟨-, -, -, -, hnbits, -, -, -, -, hdedup⟩ := hob.regs
  have hcount : l1.nbits.toNat = l.nbits.toNat + 1 := by rw [hnbits, hsucc]
  refine ⟨{ l1 with par := parNext l1.par v, state := .confirmed }, ?_, happ, rfl, hdedup, hcount⟩
  simp only [swBit, hparity, e, Res.inStep]
  exact swEndBit_of_not_parity (l := { l1 with par := parNext l1.par v }) (hcount ▸ hraw)

end Store

/-! ### Pulses after one another -/

/-- The class of a data pulse. -/
def Half.cls : Half → PulseClass
  | .short => .short
  | .long => .long

/-- The state that remembers a first half (R171). -/
def Half.phase : Half → DecState
  | .short => .phaseA
  | .long => .phaseB

section Feed

variable {cfg : Config} {p : LaneId} {now : Nat} {c : PulseClass} {l l' : Lane}

/-- A lane-level FEED whose step goes on (R111). -/
theorem laneFeed_of_cont (hd : l.state ≠ .done) (h : laneStep cfg p c l = .cont l') :
    laneFeed cfg p now c l = .ok l' := by
  rw [laneFeed, if_neg hd, h]
  rfl

theorem feedOne_of_cont (hd : l.state ≠ .done) (h : laneStep cfg p c l = .cont l') :
    [c].foldlM (fun l c => laneFeed cfg p now c l) l = .ok l' := by
  rw [List.foldlM_cons, laneFeed_of_cont hd h]
  rfl

/-- The first half of a pair is remembered by every lane but EM, which has no sampler (R171, R214, R243). -/
theorem laneStep_firstHalf (a : Half) (hp : p ≠ .em) (hst : l.state = .confirmed) :
    laneStep cfg p a.cls l = .cont { l with state := a.phase } := by
  cases p with
  | em => exact absurd rfl hp
  | sec => cases a <;> simp [laneStep, stepSec, secData, Half.cls, hst] <;> rfl
  | ws => cases a <;> simp [laneStep, stepWs, wsData, Half.cls, hst] <;> rfl
  | sw => cases a <;> simp [laneStep, stepSw, swData, Half.cls, hst] <;> rfl

/-- Two pulses on a lane with a sampler: the first is remembered, the second makes the step that ends the bit. -/
theorem feedPair_of_cont (a b : Half) (hp : p ≠ .em) (hst : l.state = .confirmed)
    (h : laneStep cfg p b.cls { l with state := a.phase } = .cont l') :
    [a.cls, b.cls].foldlM (fun l c => laneFeed cfg p now c l) l = .ok l' := by
  have hd : a.phase ≠ .done := by cases a <;> decide
  rw [List.foldlM_cons, laneFeed_of_cont (by simp [hst]) (laneStep_firstHalf a hp hst)]
  exact feedOne_of_cont (l := { l with state := a.phase }) hd h

/-- The second half of a pair, on the lane that remembers the first (R175, R176, R215, R244). -/
theorem stepSec_secondHalf (w : Nat) (a b : Half) (l : Lane) :
    stepSec w b.cls { l with state := a.phase } = secSecondHalf w a b { l with state := a.phase } := by
  cases a <;> cases b <;> rfl

theorem stepWs_secondHalf (w : Nat) (marker : Bool) (a b : Half) (l : Lane) :
    stepWs w marker b.cls { l with state := a.phase } = wsSecondHalf w marker a b { l with state := a.phase } := by
  cases a <;> cases b <;> rfl

theorem stepSw_secondHalf (w : Nat) (a b : Half) (l : Lane) :
    stepSw w b.cls { l with state := a.phase } = swSecondHalf w a b { l with state := a.phase } := by
  cases a <;> cases b <;> rfl

end Feed

/-! ### The pulses of a bit, lane by lane (R92) -/

section Bits

variable {cfg : Config} {now : Nat} {v : Bool} {l : Lane}

theorem secBitPulses_store (hcfg : configOk cfg) (hb : bufferOk cfg.sec.w l) (hp : l.pos.toNat < 25)
    (hst : l.state = .confirmed) :
    ∃ l', (bitPulses .sec v).foldlM (fun l c => laneFeed cfg .sec now c l) l = .ok l'
      ∧ BitStored cfg.sec.w v 0 l l' := by
  have store (a b : Half) (hne : b ≠ a) :
      ∃ l', [a.cls, b.cls].foldlM (fun l c => laneFeed cfg .sec now c l) l = .ok l'
        ∧ BitStored cfg.sec.w (b == .short) 0 l l' := by
    obtain ⟨l', h, hs⟩ :=
      secSecondHalf_stores (l := { l with state := a.phase }) (configOk_w hcfg .sec) hb hp hne
    exact ⟨l', feedPair_of_cont a b nofun hst ((stepSec_secondHalf _ a b l).trans h), hs⟩
  cases v with
  | false => exact store .short .long nofun
  | true => exact store .long .short nofun

theorem emBitPulses_store (hcfg : configOk cfg) (hb : bufferOk cfg.em.w l) (hp : l.pos.toNat < 25)
    (hst : l.state = .confirmed) :
    ∃ l', (bitPulses .em v).foldlM (fun l c => laneFeed cfg .em now c l) l = .ok l'
      ∧ BitStored cfg.em.w v 0 l l' := by
  have store (h : Half) :
      ∃ l', [h.cls].foldlM (fun l c => laneFeed cfg .em now c l) l = .ok l'
        ∧ BitStored cfg.em.w (h == .long) 0 l l' := by
    obtain ⟨l', e, hs⟩ := emBit_stores (h := h) (configOk_w hcfg .em) hb hp hst
    have hstep : laneStep cfg .em h.cls l = emBit cfg.em.w h l := by
      cases h <;> simp only [laneStep, stepEm, emData, Half.cls, hst, configLane_em]
    exact ⟨l', feedOne_of_cont (by simp [hst]) (hstep.trans e), hs⟩
  cases v with
  | false => exact store .short
  | true => exact store .long

theorem wsBitPulses_store (hcfg : configOk cfg) (hb : bufferOk cfg.ws.w l) (hp : l.pos.toNat < 25)
    (hst : l.state = .confirmed) (hn : l.nbits.toNat < 48) (hraw : (l.nbits.toNat + 1) % 5 ≠ 0) :
    ∃ l', (bitPulses .ws v).foldlM (fun l c => laneFeed cfg .ws now c l) l = .ok l'
      ∧ BitStored cfg.ws.w v 1 l l' := by
  have store (a b : Half)
      (hpair : ∀ l, wsSecondHalf cfg.ws.w cfg.wsMarker a b l = wsBit cfg.ws.w cfg.wsMarker v l) :
      ∃ l', [a.cls, b.cls].foldlM (fun l c => laneFeed cfg .ws now c l) l = .ok l'
        ∧ BitStored cfg.ws.w v 1 l l' := by
    obtain ⟨l', h, hs⟩ := wsBit_stores (v := v) (marker := cfg.wsMarker) (l := { l with state := a.phase })
      (configOk_w hcfg .ws) hb hp hn hraw
    exact ⟨l', feedPair_of_cont a b nofun hst ((stepWs_secondHalf _ _ a b l).trans ((hpair _).trans h)), hs⟩
  cases v with
  | false => exact store .long .short fun _ => rfl
  | true => exact store .short .long fun _ => rfl

theorem swBitPulses_store (hcfg : configOk cfg) (hb : bufferOk cfg.sw.w l) (hp : l.pos.toNat < 25)
    (hst : l.state = .confirmed) (hn : l.nbits.toNat < 255) (hraw : (l.nbits.toNat + 1) % 9 ≠ 0) :
    ∃ l', (bitPulses .sw v).foldlM (fun l c => laneFeed cfg .sw now c l) l = .ok l'
      ∧ BitStored cfg.sw.w v 1 l l' := by
  have store (h : Half) (hpair : ∀ l, swSecondHalf cfg.sw.w h h l = swBit cfg.sw.w v l) :
      ∃ l', [h.cls, h.cls].foldlM (fun l c => laneFeed cfg .sw now c l) l = .ok l'
        ∧ BitStored cfg.sw.w v 1 l l' := by
    obtain ⟨l', e, hs⟩ := swBit_stores (v := v) (l := { l with state := h.phase }) (configOk_w hcfg .sw) hb hp hn hraw
    exact ⟨l', feedPair_of_cont h h nofun hst ((stepSw_secondHalf _ h h l).trans ((hpair _).trans e)), hs⟩
  cases v with
  | false => exact store .short fun _ => rfl
  | true => exact store .long fun _ => rfl

end Bits

/-- Settles O36: lane by lane, the last pulse of a bit makes the step that stores it. -/
theorem bitPulsesStoreTheBit : Obligations.BitPulsesStoreTheBit := by
  intro cfg p now v l hcfg hb hst hp hn hws hsw
  cases p with
  | sec => exact secBitPulses_store hcfg hb hp hst
  | em => exact emBitPulses_store hcfg hb hp hst
  | ws => exact wsBitPulses_store hcfg hb hp hst hn (hws rfl)
  | sw => exact swBitPulses_store hcfg hb hp hst (by omega) (hsw rfl)

end Sys2Proof.Machine
end

section
/-!
PROOF. The driver (spec/40_driver.md): NOP, RESET and TAKE change at most the lane they name (R116, R117, R120), the
classes partition the widths (R112), and FEED is the four lane-level FEEDs (R110). A lane-level FEED ignores the pulse
in Done (`laneFeed_of_done`), fails on class `X` (`laneStep_outOfRange`), and enters Done only through ADMIT
(`laneFeed_enters_done`).
-/

namespace Sys2Proof.Machine

/-! ### NOP, RESET and TAKE -/

theorem noLane_answer (s : State) (r : Reply) : NoLane s (s.answer r) :=
  ⟨fun q => State.answer_lane s r q, rfl, rfl, rfl⟩

/-- The lane reset of `p` by a host operation (R302). -/
theorem laneIsReset_setLane_answer (s : State) (p : LaneId) (r : Reply) :
    LaneIsReset (s.lane p) (((s.setLane p (s.lane p).reset).answer r).lane p) := by
  rw [State.answer_lane, State.lane_setLane]
  exact laneIsReset_reset (s.lane p)

/-- TAKE on a lane that holds a packet (R116). -/
theorem execTake_of_done {p : LaneId} {s : State} (hd : (s.lane p).state = .done)
    (hpos : (s.lane p).pos.toNat ≤ 25) :
    execTake p s = .next ((s.setLane p (s.lane p).reset).answer (.packet (s.lane p).pos (s.lane p).packet)) :=
  (if_pos hd).trans (if_neg (Nat.not_lt.2 hpos))

/-- TAKE on a lane that holds none (R116, U1). -/
theorem execTake_of_ne_done {p : LaneId} {s : State} (hd : (s.lane p).state ≠ .done) :
    execTake p s = .next (s.answer .noPacket) := if_neg hd

/-- Settles O8: an answer changes no lane; the fields of the all-zero word are 0, and `op` 0x0 is NOP. -/
theorem nopChangesNothing : Obligations.NopChangesNothing := by
  refine ⟨fun s => ⟨_, rfl, noLane_answer s .ok, rfl⟩, fun widthBits => ?_⟩
  have hzero : fieldWord widthBits 0 0 0 0 = 0 := by rw [fieldWord, Nat.zero_mul]
  rw [← hzero]
  exact decode_fieldWord (by decide) (by decide) (Nat.two_pow_pos _)

/-- Settles O10: RESET is the lane reset and an answer. -/
theorem resetDiscardsLane : Obligations.ResetDiscardsLane := fun p s =>
  ⟨_, rfl, onlyLane_setLane_answer s p _ .ok, rfl, laneIsReset_setLane_answer s p .ok⟩

/-- Settles O11: the answer is the packet as the lane holds it before the lane reset. -/
theorem takeReturnsPacketAndResets : Obligations.TakeReturnsPacketAndResets := fun p s hd hpos =>
  ⟨_, execTake_of_done hd hpos, onlyLane_setLane_answer s p _ _, laneIsReset_setLane_answer s p _, rfl⟩

/-- Settles O12: without a packet TAKE is an answer alone. -/
theorem takeWithoutPacketChangesNothing : Obligations.TakeWithoutPacketChangesNothing := fun _ s hd =>
  ⟨_, execTake_of_ne_done hd, noLane_answer s .noPacket, rfl⟩

/-! ### The classifier (R112) -/

theorem tgap_eq (p : LaneId) : tgap p = if p = .sec then 2500 else 1500 := by cases p <;> rfl

/-- Settles O15: the thresholds of a legal configuration rise, so each width meets the test of one class alone. -/
theorem classifierBounds : Obligations.ClassifierBounds := by
  refine ⟨fun cfg p w hcfg => ?_, by decide⟩
  obtain ⟨hmin, hsplit, hmax, -⟩ := configOk_order hcfg p
  simp only [← tgap_eq, classify]
  split
  case isTrue hshort => simp only [reduceCtorEq, true_iff, false_iff]; omega
  case isFalse hshort =>
    split
    case isTrue hlong => simp only [reduceCtorEq, true_iff, false_iff]; omega
    case isFalse hlong =>
      split
      case isTrue hgap => simp only [reduceCtorEq, true_iff, false_iff]; omega
      case isFalse hgap => simp only [reduceCtorEq, true_iff, false_iff]; omega

/-! ### FEED (R110) -/

/-- The bits of a vector written out from its four bits, the last one bit 0. -/
theorem getLsbD_ofBool_append (b3 b2 b1 b0 : Bool) :
    let v : BitVec 4 := BitVec.ofBool b3 ++ BitVec.ofBool b2 ++ BitVec.ofBool b1 ++ BitVec.ofBool b0
    v.getLsbD 0 = b0 ∧ v.getLsbD 1 = b1 ∧ v.getLsbD 2 = b2 ∧ v.getLsbD 3 = b3 := by
  revert b3 b2 b1 b0
  decide

/-- Bit `p` of the vector `avail[3:0]` is the `avail` of lane `p` (R89). -/
theorem getLsbD_availBits (s : State) (p : LaneId) : s.availBits.getLsbD p.code = s.avail p := by
  obtain ⟨hsec, hem, hws, hsw⟩ := getLsbD_ofBool_append (s.avail .sw) (s.avail .ws) (s.avail .em) (s.avail .sec)
  cases p
  exacts [hsec, hem, hws, hsw]

/-- FEED completes when the buffers are in order, since every lane-level FEED does. -/
theorem execFeed_completes {s : State} (width : Nat) (h : buffersInv s) : ∃ t, execFeed width s = .next t := by
  obtain ⟨hcfg, hb⟩ := (buffersInv_iff s).1 h
  have feed (p : LaneId) := laneFeed_bufferOk (now := s.now) (c := classify s.cfg p width) hcfg (hb p)
  obtain ⟨l1, h1, -⟩ := feed .sec
  obtain ⟨l2, h2, -⟩ := feed .em
  obtain ⟨l3, h3, -⟩ := feed .ws
  obtain ⟨l4, h4, -⟩ := feed .sw
  exact ⟨_, execFeed_of_ok h1 h2 h3 h4⟩

/-- What FEED leaves beside the lanes (R110), and its answer (R89). -/
theorem execFeed_frame {width : Nat} {s t : State} (h : execFeed width s = .next t) :
    t.cfg = s.cfg ∧ t.now = s.now ∧ t.inbox = s.inbox ∧ t.reply = .fed t.availBits := by
  obtain ⟨l1, l2, l3, l4, -, -, -, -, rfl⟩ := execFeed_next h
  exact ⟨rfl, rfl, rfl, rfl⟩

/-- Settles O13: every lane has its own lane-level FEED's result, and the answer is the vector of the `avail` outputs. -/
theorem feedStepsEveryLane : Obligations.FeedStepsEveryLane := by
  intro width s hs
  obtain ⟨t, ht⟩ := execFeed_completes width hs
  obtain ⟨hcfg, hnow, hinbox, hreply⟩ := execFeed_frame ht
  obtain ⟨-, hlane⟩ := execFeed_lane ht
  exact ⟨t, t.availBits, ht, hlane, hcfg, hnow, hinbox, hreply,
    fun p => (getLsbD_availBits t p).trans (Bool.beq_eq_decide_eq _ _)⟩

/-! ### A lane that holds a packet (R113), and class `X` (R118) -/

theorem laneFeed_of_done {cfg : Config} {p : LaneId} {now : Nat} {c : PulseClass} {l : Lane} (h : l.state = .done) :
    laneFeed cfg p now c l = .ok l := if_pos h

/-- R118: the first test of every step is for class `X`. -/
theorem laneStep_outOfRange (cfg : Config) (p : LaneId) (l : Lane) :
    laneStep cfg p .outOfRange l = .fail .range := by
  cases p <;> rfl

/-- Settles O16: the lane-level FEED of a lane in Done gives the lane back. -/
theorem heldPacketIgnoresPulses : Obligations.HeldPacketIgnoresPulses := by
  refine fun p s hd => ⟨fun c => ?key, fun width t h => ?feed⟩
  case key =>
    have hexec := (exec_keyInstr p .done c s).trans (transition_of_ok hd (laneFeed_of_done hd))
    rw [State.setLane_lane, hd] at hexec
    exact ⟨_, hexec, noLane_answer s _, rfl⟩
  case feed =>
    obtain ⟨-, hlane⟩ := execFeed_lane h
    exact (Except.ok.inj ((laneFeed_of_done hd).symm.trans (hlane p))).symm

/-- Settles O17: the step fails, and the driver takes the Fail by the lane reset. -/
theorem outOfRangePulseResets : Obligations.OutOfRangePulseResets := fun p _ s hd hst =>
  have hfail := laneStep_outOfRange s.cfg p (s.lane p)
  ⟨hfail, key_fail hst hd hfail⟩

/-! ### Who enters Done (R122) -/

/-- ADMIT, against record `d`, accepts the packet of a lane that a step has completed (R115, R151). -/
abbrev AdmitAccepts (cfg : Config) (p : LaneId) (now : Nat) (d : DedupRecord) (l : Lane) : Prop :=
  (admitRecord cfg.timeBits (cfg.lane p) (crcOf cfg.crc (completedPacket (cfg.lane p) l)) now d).1 = true

/-- A packet handed over is held only when ADMIT accepts it (R115). -/
theorem HandedOver.accepted_of_done {cfg : Config} {p : LaneId} {now : Nat} {l l' : Lane}
    (h : HandedOver cfg p now l l') (hd : l'.state = .done) :
    AdmitAccepts cfg p now l.dedup l := by
  obtain ⟨-, hdropped⟩ := h
  by_contra hreject
  obtain ⟨-, -, -, -, hst, -⟩ := hdropped (Bool.eq_false_of_not_eq_true hreject)
  cases hst.symm.trans hd

/-- A lane-level FEED enters Done only when its step completes and ADMIT accepts the packet (R115, R122). -/
theorem laneFeed_enters_done {cfg : Config} {p : LaneId} {now : Nat} {c : PulseClass} {l l' : Lane}
    (hcfg : configOk cfg) (hb : bufferOk (cfg.lane p).w l) (h : laneFeed cfg p now c l = .ok l')
    (hd : l.state ≠ .done) (hd' : l'.state = .done) :
    ∃ l1, laneStep cfg p c l = .complete l1 ∧ AdmitAccepts cfg p now l.dedup l1 := by
  have hstep := laneStep_keepsBuffer (c := c) hcfg hb
  obtain ⟨hheld, -⟩ | ⟨-, hcont⟩ | ⟨-, l1, hcomplete, hover⟩ | ⟨-, rfl⟩ := laneFeed_cases h
  · exact absurd hheld hd
  · obtain ⟨-, -, hnot⟩ := hstep.of_cont hcont
    exact absurd hd' (hnot hd)
  · obtain ⟨hb1, hdedup, -⟩ := hstep.of_complete hcomplete
    obtain ⟨l2, hover2, hho, -⟩ := completeLane_spec (now := now) (configOk_w hcfg p) hb1
    cases hover2.symm.trans hover
    exact ⟨l1, hcomplete, hdedup ▸ hho.accepted_of_done hd'⟩
  · cases hd'

/-- Of what a host operation can leave of a lane, only a FEED's result can be in Done where the lane was not. -/
theorem LaneAfter.enters_done {s : State} {p : LaneId} {i : Instr} {l : Lane} (ha : LaneAfter s p i l)
    (hs : buffersInv s) (hi : isHostOp i = true) (hd : (s.lane p).state ≠ .done) (hd' : l.state = .done) :
    ∃ width l1, i = .feed width ∧ laneStep s.cfg p (classify s.cfg p width) (s.lane p) = .complete l1
      ∧ AdmitAccepts s.cfg p s.now (s.lane p).dedup l1 := by
  cases ha with
  | same => exact absurd hd' hd
  | reset => cases hd'
  | pulse hp hl =>
    cases hp with
    | feed width =>
      obtain ⟨hcfg, hb⟩ := (buffersInv_iff s).1 hs
      obtain ⟨l1, hcomplete, haccept⟩ := laneFeed_enters_done hcfg (hb p) hl hd hd'
      exact ⟨width, l1, rfl, hcomplete, haccept⟩
    | key st c => simp [isHostOp_keyInstr] at hi
  | micro hm => simp [hm.not_isHostOp] at hi
  | admitted d he => simp [he, isHostOp] at hi

/-- Settles O49: the four operations are host operations, and what they leave of a lane is known. -/
theorem packetHeldOnlyWhenAdmitted : Obligations.PacketHeldOnlyWhenAdmitted := by
  intro i p q s t hs hop h hd hd'
  have hi : isHostOp i = true := by obtain ⟨width, rfl⟩ | rfl | rfl | rfl := hop <;> rfl
  obtain ⟨-, hlane⟩ := exec_effect h
  exact (hlane p).enters_done hs hi hd hd'

end Sys2Proof.Machine
end

section
/-!
PROOF. The Bit Accumulator (spec/41_accumulator.md): what each micro-operation by itself leaves of its lane (R131 to
R137; log 9), that every bit which comes at a full buffer overflows (R131, R61), and that MANCH of a raw stream is
APPEND of its running exclusive or (R132). REVB, REVN and INVERT are maps of the slots below a bound that the cursor
fixes (`MapsSlots`): their involutions and the commuting of two of them are those of the byte functions.
-/

namespace Sys2Proof.Machine

/-! ### A micro-operation by itself (R82; log 9) -/

section Micro

variable {p : LaneId} {i : Instr} {f : Lane → Res Lane} {s : State} {l : Lane}

theorem AccumulatorOp.exec_eq (hi : AccumulatorOp (s.cfg.lane p).w p i f) : exec i s = s.micro p f := by
  cases hi <;> rfl

theorem AccumulatorOp.exec_of_ok (hi : AccumulatorOp (s.cfg.lane p).w p i f) (h : f (s.lane p) = .ok l) :
    ∃ t, exec i s = .next t ∧ OnlyLane p s t ∧ t.reply = .micro false ∧ t.lane p = l :=
  ⟨_, hi.exec_eq.trans (micro_ok h), onlyLane_setLane_answer s p l _, rfl, by simp⟩

/-- The lane takes a Fail by its reset (R114). -/
theorem AccumulatorOp.exec_of_fail {c : FailCause} (hi : AccumulatorOp (s.cfg.lane p).w p i f)
    (h : f (s.lane p) = .fail c) :
    ∃ t, exec i s = .next t ∧ OnlyLane p s t ∧ t.reply = .micro true ∧ LaneIsReset (s.lane p) (t.lane p) :=
  ⟨_, hi.exec_eq.trans (micro_fail h), onlyLane_setLane_answer s p _ _, rfl, laneIsReset_setLane_answer s p _⟩

end Micro

/-! ### APPEND and MANCH (R131, R132) -/

theorem free_or_full {w : Nat} {l : Lane} (h : bufferOk w l) : l.pos.toNat < 25 ∨ l.pos.toNat = 25 := by
  obtain ⟨⟨hpos, -, -⟩, -⟩ := h
  exact Nat.lt_or_eq_of_le hpos

/-- Settles O37: APPEND by itself stores the bit where a slot is free, and fails at a full buffer. -/
theorem appendMicroOperation : Obligations.AppendMicroOperation := by
  intro p v s hcfg hb
  obtain hfree | hfull := free_or_full hb
  · obtain ⟨l', happend, -, hbit, hframe⟩ := append_spec (v := v) (configOk_w hcfg p) hb hfree
    obtain ⟨t, ht, honly, hreply, rfl⟩ := (AccumulatorOp.append v).exec_of_ok happend
    exact ⟨t, ht, honly, fun _ => ⟨hreply, hbit, hframe⟩, fun hfull => absurd hfull hfree.ne⟩
  · have happend : append (s.cfg.lane p).w v (s.lane p) = .fail .overflow := append_full hfull
    obtain ⟨t, ht, honly, hreply, hreset⟩ := (AccumulatorOp.append v).exec_of_fail happend
    exact ⟨t, ht, honly, fun hfree => absurd hfull hfree.ne, fun _ => ⟨happend, hreply, hreset⟩⟩

theorem manch_full {w : Nat} {raw : Bool} {l : Lane} (h : l.pos.toNat = 25) : manch w raw l = .fail .overflow :=
  append_full (l := { l with flip := flipNext l.flip raw }) h

/-- An update of the flip flag and then of the buffer, seen as one of the buffer alone. -/
theorem OnlyBuffer.restoreFlip {flip : Bool} {l l' : Lane} (h : OnlyBuffer { l with flip := flip } l') :
    OnlyBuffer l { l' with flip := l.flip } := by
  have hflip := congrArg (fun m : Lane => { m with flip := l.flip }) h
  exact hflip

/-- MANCH where a slot is free (R132): the flip flag is toggled by the raw bit, and its new value is appended. -/
theorem manch_spec {w : Nat} {raw : Bool} {l : Lane} (hw : w = 7 ∨ w = 8) (h : bufferOk w l)
    (hp : l.pos.toNat < 25) :
    ∃ l', manch w raw l = .ok l' ∧ l'.flip = (l.flip ^^ raw) ∧ AppendedBit w (l.flip ^^ raw) l l'
      ∧ OnlyBuffer l { l' with flip := l.flip } := by
  obtain ⟨l', happend, -, hbit, hframe⟩ :=
    append_spec (v := l.flip ^^ raw) (l := { l with flip := l.flip ^^ raw }) hw h hp
  obtain ⟨hflip, -⟩ := hframe.regs
  exact ⟨l', happend, hflip, hbit, hframe.restoreFlip⟩

/-- Settles O38: as for APPEND, with the toggled flip flag. -/
theorem manchMicroOperation : Obligations.ManchMicroOperation := by
  intro p raw s hcfg hb
  obtain hfree | hfull := free_or_full hb
  · obtain ⟨l', hmanch, hflip, hbit, hframe⟩ := manch_spec (raw := raw) (configOk_w hcfg p) hb hfree
    obtain ⟨t, ht, honly, hreply, rfl⟩ := (AccumulatorOp.manch raw).exec_of_ok hmanch
    exact ⟨t, ht, honly, fun _ => ⟨hreply, hflip, hbit, hframe⟩, fun hfull => absurd hfull hfree.ne⟩
  · obtain ⟨t, ht, honly, hreply, hreset⟩ := (AccumulatorOp.manch raw).exec_of_fail (manch_full hfull)
    exact ⟨t, ht, honly, fun hfree => absurd hfull hfree.ne, fun _ => ⟨hreply, hreset⟩⟩

/-! ### PAD and ALIGN (R133, R134) -/

/-- Settles O39: the closed form of PAD. -/
theorem padMicroOperation : Obligations.PadMicroOperation := by
  intro p s hcfg hb
  obtain ⟨l', hpad, -, hbits, hpos, hbytes, hframe⟩ := pad_spec (configOk_w hcfg p) hb
  obtain ⟨t, ht, honly, hreply, rfl⟩ := AccumulatorOp.pad.exec_of_ok hpad
  exact ⟨t, ht, honly, hreply, hbits, hpos, hbytes, hframe⟩

/-- Settles O40: ALIGN truncates exactly when `max` is given and the padded buffer is longer. -/
theorem alignMicroOperation : Obligations.AlignMicroOperation := by
  intro p max s hcfg hb n byte
  obtain ⟨l', halign, -, hbits, hpos, hkept, hpadded, hframe⟩ := align_spec (max := max) (configOk_w hcfg p) hb
  obtain ⟨t, ht, honly, hreply, rfl⟩ := (AccumulatorOp.align max).exec_of_ok halign
  refine ⟨t, ht, honly, hreply, hbits, hframe, fun hmax hlt => ⟨?_, hkept ⟨hmax, hlt⟩⟩, fun hmax => ?_⟩
  · exact BitVec.eq_of_toNat_eq (hpos.trans (if_pos ⟨hmax, hlt⟩))
  · have hnot : ¬(0 < max.toNat ∧ max.toNat < paddedLen (s.lane p)) := by omega
    exact ⟨hpos.trans (if_neg hnot), hpadded hnot⟩

/-! ### REVB, REVN and INVERT: bytes mapped in place (R135 to R137) -/

/-- Byte function `f` is applied to the slots below `n`, and nothing else changes. -/
def MapsSlots (f : Byte → Byte) (n : Nat) (l l' : Lane) : Prop :=
  (∀ j, l'.data.read j = if j < n then f (l.data.read j) else l.data.read j) ∧ { l' with data := l.data } = l

/-- With its buffer in order, `op` maps the slots below the bound `n` of the byte cursor by `f`, and raises nothing. -/
def InPlace (w : Nat) (f : Byte → Byte) (n : BitVec 5 → Nat) (op : Lane → Res Lane) : Prop :=
  ∀ l, bufferOk w l → ∃ l', op l = .ok l' ∧ bufferOk w l' ∧ MapsSlots f (n l.pos) l l'

section MapsSlots

variable {f g : Byte → Byte} {n : Nat} {l l' l'' : Lane}

theorem MapsSlots.pos (h : MapsSlots f n l l') : l'.pos = l.pos := by
  obtain ⟨-, hframe⟩ := h
  rw [← hframe]

theorem MapsSlots.sameBytes (hf : Function.Involutive f) (h : MapsSlots f n l l') (h' : MapsSlots f n l' l'') :
    SameBytes l l'' := by
  obtain ⟨hread, -⟩ := h
  obtain ⟨hread', -⟩ := h'
  intro j
  rw [hread', hread]
  split
  · exact hf _
  · rfl

theorem MapsSlots.sameBytes_of_commute {a b c : Lane} (hfg : Function.Commute f g) (hg : MapsSlots g n l l')
    (hfa : MapsSlots f n l' a) (hf : MapsSlots f n l b) (hgc : MapsSlots g n b c) : SameBytes a c := by
  obtain ⟨hl', -⟩ := hg
  obtain ⟨ha, -⟩ := hfa
  obtain ⟨hb, -⟩ := hf
  obtain ⟨hc, -⟩ := hgc
  intro j
  rw [hc, hb, ha, hl']
  split
  · exact (hfg _).symm
  · rfl

end MapsSlots

theorem mapCompleted_inPlace (w : Nat) (f : Byte → Byte) : InPlace w f BitVec.toNat (mapCompleted f) := by
  intro l hb
  obtain ⟨l', hmap, hb', hpos, hbits, hread, hframe⟩ := mapCompleted_spec (f := f) hb
  refine ⟨l', hmap, hb', hread, ?_⟩
  rw [OnlyBuffer, ← hpos, ← hbits] at hframe
  exact hframe

theorem invert_inPlace (w : Nat) :
    InPlace w (fun b => ~~~b) (fun pos => min pos.toNat 24 + 1) fun l => .ok (invert l) := by
  intro l hb
  obtain ⟨hb', hread, -⟩ := invert_spec hb
  have hnot : ∀ b : Byte, b ^^^ 0xFF = ~~~b := fun b => BitVec.xor_allOnes
  refine ⟨invert l, rfl, hb', fun j => ?_, rfl⟩
  simp only [hread, hnot, Nat.lt_succ_iff]

section InPlace

variable {p : LaneId} {i : Instr} {w : Nat} {f : Byte → Byte} {n : BitVec 5 → Nat} {op : Lane → Res Lane} {s : State}

/-- An operation in place, issued by itself (log 9). -/
theorem InPlace.exec (h : InPlace w f n op) (hi : AccumulatorOp (s.cfg.lane p).w p i op)
    (hb : bufferOk w (s.lane p)) :
    ∃ t, Machine.exec i s = .next t ∧ OnlyLane p s t ∧ t.reply = .micro false ∧ bufferOk w (t.lane p)
      ∧ MapsSlots f (n (s.lane p).pos) (s.lane p) (t.lane p) := by
  obtain ⟨l', hop, hb', hmap⟩ := h (s.lane p) hb
  obtain ⟨t, ht, honly, hreply, rfl⟩ := hi.exec_of_ok hop
  exact ⟨t, ht, honly, hreply, hb', hmap⟩

/-- Run again on the lane it has left, an operation in place that maps by an involution restores every byte. -/
theorem InPlace.exec_again {l : Lane} (h : InPlace w f n op) (hf : Function.Involutive f)
    (hi : AccumulatorOp (s.cfg.lane p).w p i op) (hb : bufferOk w (s.lane p))
    (hmap : MapsSlots f (n l.pos) l (s.lane p)) : ∃ t, Machine.exec i s = .next t ∧ SameBytes l (t.lane p) := by
  obtain ⟨t, ht, -, -, -, hmap'⟩ := h.exec hi hb
  exact ⟨t, ht, hmap.sameBytes hf (hmap.pos ▸ hmap')⟩

end InPlace

theorem bitrev8_involutive : Function.Involutive bitrev8 := by
  intro b
  refine BitVec.eq_of_getLsbD_eq fun i hi => ?_
  rw [bitrev8_getLsbD _ i hi, bitrev8_getLsbD _ (7 - i) (by omega), show 7 - (7 - i) = i by omega]

/-- The nibbles of `swapNibbles` (R136). -/
theorem toNat_swapNibbles (b : Byte) : (swapNibbles b).toNat = b.toNat % 16 * 16 + b.toNat / 16 := by
  have hb := b.isLt
  rw [swapNibbles, BitVec.toNat_append, BitVec.extractLsb'_toNat, BitVec.extractLsb'_toNat,
    ← Nat.shiftLeft_add_eq_or_of_lt (Nat.mod_lt _ (by decide)), Nat.shiftLeft_eq, Nat.shiftRight_eq_div_pow,
    Nat.shiftRight_eq_div_pow]
  omega

theorem swapNibbles_involutive : Function.Involutive swapNibbles := by
  intro b
  have hb := b.isLt
  apply BitVec.eq_of_toNat_eq
  rw [toNat_swapNibbles, toNat_swapNibbles]
  omega

/-- The bits of `swapNibbles` (R136): each moves by four places. -/
theorem swapNibbles_getLsbD (b : Byte) (i : Nat) (hi : i < 8) :
    (swapNibbles b).getLsbD i = b.getLsbD ((i + 4) % 8) := by
  rw [swapNibbles, BitVec.getLsbD_append, BitVec.getLsbD_extractLsb', BitVec.getLsbD_extractLsb']
  split
  · rename_i hlow
    rw [show (i + 4) % 8 = 4 + i by omega]
    simp [hlow]
  · rw [show (i + 4) % 8 = 0 + (i - 4) by omega]
    simp [show i - 4 < 4 by omega]

theorem bitrev8_commute_swapNibbles : Function.Commute bitrev8 swapNibbles := by
  intro b
  refine BitVec.eq_of_getLsbD_eq fun i hi => ?_
  rw [bitrev8_getLsbD _ i hi, swapNibbles_getLsbD _ (7 - i) (by omega), swapNibbles_getLsbD _ i hi,
    bitrev8_getLsbD _ _ (Nat.mod_lt _ (by decide)), show (7 - i + 4) % 8 = 7 - (i + 4) % 8 by omega]

/-- Settles O41: REVB maps the completed bytes by `bitrev8`, an involution. -/
theorem revbMicroOperation : Obligations.RevbMicroOperation := by
  intro p s hcfg hb
  have hrevb := mapCompleted_inPlace (s.cfg.lane p).w bitrev8
  obtain ⟨t, ht, honly, hreply, hbt, hmap⟩ := hrevb.exec .revb hb
  obtain ⟨u, hu, hsame⟩ := hrevb.exec_again bitrev8_involutive .revb hbt hmap
  obtain ⟨hread, hframe⟩ := hmap
  refine ⟨t, u, ht, honly, hreply, fun j b hj hb8 => ?_, fun j hj => ?_, hframe, hu, hsame⟩
  · rw [hread, if_pos hj, bitrev8_getLsbD _ b hb8]
  · rw [hread, if_neg (Nat.not_lt.2 hj)]

/-- Settles O42: REVN maps the completed bytes by `swapNibbles`, an involution that commutes with `bitrev8`. -/
theorem revnMicroOperation : Obligations.RevnMicroOperation := by
  intro p s hcfg hb
  have hrevb := mapCompleted_inPlace (s.cfg.lane p).w bitrev8
  have hrevn := mapCompleted_inPlace (s.cfg.lane p).w swapNibbles
  obtain ⟨t, ht, honly, hreply, hbt, hmap⟩ := hrevn.exec .revn hb
  obtain ⟨u, hu, hsame⟩ := hrevn.exec_again swapNibbles_involutive .revn hbt hmap
  obtain ⟨a, ha, -, -, -, hmapA⟩ := hrevb.exec .revb hbt
  obtain ⟨b, hb', -, -, hbb, hmapB⟩ := hrevb.exec .revb hb
  obtain ⟨c, hc, -, -, -, hmapC⟩ := hrevn.exec .revn hbb
  have hcommute : SameBytes (a.lane p) (c.lane p) :=
    hmap.sameBytes_of_commute bitrev8_commute_swapNibbles (hmap.pos ▸ hmapA) hmapB (hmapB.pos ▸ hmapC)
  obtain ⟨hread, hframe⟩ := hmap
  refine ⟨t, u, ht, honly, hreply, fun j hj => ?_, fun j hj => ?_, hframe, hu, hsame, a, b, c, ha, hb', hc, hcommute⟩
  · have hbyte := ((s.lane p).data.read j).isLt
    rw [hread, if_pos hj, toNat_swapNibbles]
    omega
  · rw [hread, if_neg (Nat.not_lt.2 hj)]

/-- Settles O43: INVERT maps the slots up to `min(pos, 24)` by the complement, an involution. -/
theorem invertMicroOperation : Obligations.InvertMicroOperation := by
  intro p s hcfg hb
  have hinvert := invert_inPlace (s.cfg.lane p).w
  obtain ⟨t, ht, honly, hreply, hbt, hmap⟩ := hinvert.exec .invert hb
  obtain ⟨u, hu, hsame⟩ := hinvert.exec_again (fun b => BitVec.not_not) .invert hbt hmap
  obtain ⟨hread, hframe⟩ := hmap
  refine ⟨t, u, ht, honly, hreply, fun j => ?_, hframe, hu, hsame⟩
  simp only [hread, Nat.lt_succ_iff]

/-! ### A bit that comes at a full buffer (R131, R61) -/

section Full

variable {cfg : Config} {w : Nat} {l : Lane}

theorem secSecondHalf_full (first second : Half) (hp : l.pos.toNat = 25) :
    secSecondHalf w first second l = .fail .overflow := by
  rw [secSecondHalf, append_full hp, Res.inStep]

theorem emBit_full (h : Half) (hp : l.pos.toNat = 25) : emBit w h l = .fail .overflow := by
  rw [emBit, append_full hp, Res.inStep]

/-- R216: a raw bit of lane WS that is no marker goes to APPEND. -/
theorem wsBit_full {marker v : Bool} (hp : l.pos.toNat = 25) (hn : l.nbits.toNat < 255)
    (hraw : (l.nbits.toNat + 1) % 5 ≠ 0) : wsBit w marker v l = .fail .overflow := by
  have hmarker : isMarkerBit (l.nbits + 1) = false := beq_eq_false_iff_ne.2 (toNat_succ hn ▸ hraw)
  simp only [wsBit, hmarker, append_full (l := { l with nbits := l.nbits + 1 }) hp]
  rfl

/-- A lane in the state that remembers half `a`. -/
theorem Lane.with_phase {a : Half} (hst : l.state = a.phase) : { l with state := a.phase } = l := by rw [← hst]

theorem laneStep_sec_full {a b : Half} (hst : l.state = a.phase) (hp : l.pos.toNat = 25) :
    laneStep cfg .sec b.cls l = .fail .overflow := by
  have hstep := stepSec_secondHalf cfg.sec.w a b l
  rw [Lane.with_phase hst, secSecondHalf_full a b hp] at hstep
  exact hstep

theorem laneStep_em_full {h : Half} (hst : l.state = .confirmed) (hp : l.pos.toNat = 25) :
    laneStep cfg .em h.cls l = .fail .overflow := by
  have hbit := emBit_full (w := (cfg.lane .em).w) h hp
  cases h <;> simpa only [laneStep, stepEm, emData, Half.cls, hst] using hbit

/-- Two unequal halves are a bit of lane WS (R215). -/
theorem laneStep_ws_full {a b : Half} (hne : a ≠ b) (hst : l.state = a.phase) (hp : l.pos.toNat = 25)
    (hn : l.nbits.toNat < 255) (hraw : (l.nbits.toNat + 1) % 5 ≠ 0) :
    laneStep cfg .ws b.cls l = .fail .overflow := by
  have hstep := stepWs_secondHalf cfg.ws.w cfg.wsMarker a b l
  have hpair : wsSecondHalf cfg.ws.w cfg.wsMarker a b l = .fail .overflow := by
    cases a with
    | short =>
      cases b with
      | short => exact absurd rfl hne
      | long => exact wsBit_full hp hn hraw
    | long =>
      cases b with
      | short => exact wsBit_full hp hn hraw
      | long => exact absurd rfl hne
  rw [Lane.with_phase hst, hpair] at hstep
  exact hstep

theorem Half.exists_cls {c : PulseClass} (hc : c = .short ∨ c = .long) : ∃ h : Half, h.cls = c :=
  hc.elim (fun e => ⟨.short, e.symm⟩) fun e => ⟨.long, e.symm⟩

theorem Half.exists_phase {st : DecState} (hst : st = .phaseA ∨ st = .phaseB) : ∃ h : Half, h.phase = st :=
  hst.elim (fun e => ⟨.short, e.symm⟩) fun e => ⟨.long, e.symm⟩

theorem Half.phase_ne_done (h : Half) : h.phase ≠ .done := by cases h <;> decide

end Full

/-- Settles O21: lane by lane the step reaches APPEND, which overflows, and the driver takes the Fail by the lane
reset. -/
theorem fullBufferOverflows : Obligations.FullBufferOverflows := by
  intro p st c s hc hcase hst hpos
  suffices hstep : st ≠ .done ∧ laneStep s.cfg p c (s.lane p) = .fail .overflow by
    obtain ⟨hd, hfail⟩ := hstep
    exact ⟨hfail, key_fail hst hd hfail⟩
  obtain ⟨b, rfl⟩ := Half.exists_cls hc
  obtain ⟨rfl, hphase⟩ | ⟨rfl, rfl⟩ | ⟨rfl, hpair, hn, hraw⟩ := hcase
  · obtain ⟨a, rfl⟩ := Half.exists_phase hphase
    exact ⟨a.phase_ne_done, laneStep_sec_full hst hpos⟩
  · exact ⟨nofun, laneStep_em_full hst hpos⟩
  · obtain ⟨rfl, hb⟩ | ⟨rfl, hb⟩ := hpair
    · rw [hb]
      exact ⟨nofun, laneStep_ws_full (a := .short) (b := .long) nofun hst hpos hn hraw⟩
    · rw [hb]
      exact ⟨nofun, laneStep_ws_full (a := .long) (b := .short) nofun hst hpos hn hraw⟩

/-! ### MANCH of a raw stream (R132) -/

/-- Go on with the lane whose flip flag is `flip`. -/
def withFlip (flip : Bool) (l : Lane) : Res Lane := .ok { l with flip := flip }

theorem Res.bind_assoc {α β γ : Type} (r : Res α) (f : α → Res β) (g : β → Res γ) :
    (r.bind f).bind g = r.bind fun a => (f a).bind g := by
  cases r <;> rfl

/-- APPEND neither reads nor writes the flip flag. -/
theorem append_withFlip (w : Nat) (v flip : Bool) (l : Lane) :
    append w v { l with flip := flip } = (append w v l).bind (withFlip flip) := by
  unfold append
  split
  · rfl
  · split
    · rfl
    · simp only [Res.bind, withFlip, roll]
      split <;> rfl

theorem appendAll_withFlip (w : Nat) (vs : List Bool) (flip : Bool) (l : Lane) :
    appendAll w vs { l with flip := flip } = (appendAll w vs l).bind (withFlip flip) := by
  induction vs generalizing l with
  | nil => rfl
  | cons v vs ih =>
    rw [appendAll, appendAll, append_withFlip, Res.bind_assoc, Res.bind_assoc]
    exact congrArg (append w v l).bind (funext ih)

theorem appendAll_flip {w : Nat} {vs : List Bool} {l l' : Lane} (h : appendAll w vs l = .ok l') :
    l'.flip = l.flip := by
  have hflip := appendAll_withFlip w vs l.flip l
  rw [h] at hflip
  have hkept : l' = { l' with flip := l.flip } := by
    simpa only [Res.bind, withFlip, Res.ok.injEq] using hflip
  rw [hkept]

/-- R132: MANCH of a raw stream is APPEND of its running exclusive or, whose last value the flip flag then holds. -/
theorem manchAll_eq (w : Nat) (raws : List Bool) (l : Lane) :
    manchAll w raws l
      = (appendAll w (runningXor l.flip raws) l).bind (withFlip (raws.foldl (fun f r => f ^^ r) l.flip)) := by
  induction raws generalizing l with
  | nil => rfl
  | cons raw raws ih =>
    rw [manchAll, manch, flipNext, append_withFlip, runningXor, appendAll, List.foldl_cons, Res.bind_assoc,
      Res.bind_assoc]
    refine congrArg (append w (l.flip ^^ raw) l).bind (funext fun l1 => ?_)
    rw [withFlip, Res.bind, ih, appendAll_withFlip, Res.bind_assoc]
    rfl

/-- Settles O52: by `manchAll_eq`, since APPEND keeps the flip flag. -/
theorem manchAppendsRunningXor : Obligations.ManchAppendsRunningXor := by
  intro w raws l l' h
  rw [manchAll_eq] at h
  cases happend : appendAll w (runningXor l.flip raws) l with
  | ok l1 =>
    rw [happend] at h
    cases h
    exact ⟨by rw [← appendAll_flip happend], rfl⟩
  | fail _ => rw [happend] at h; cases h
  | fault _ => rw [happend] at h; cases h

end Sys2Proof.Machine
end

section
/-!
PROOF. The Duplicate Suppressor (spec/42_dedup.md): the two branches of ADMIT's decision (R154 to R156), what the
micro-operation leaves of its lane (R151, R153), and the decisions on copies that keep coming within the window.
-/

namespace Sys2Proof.Machine

/-! ### Elapsed time (R154) -/

theorem elapsed_lt (timeBits now last : Nat) : elapsed timeBits now last < 2 ^ timeBits :=
  Nat.mod_lt _ (Nat.two_pow_pos timeBits)

/-- Added to `last`, the elapsed time gives `now`, both modulo `2^TIME_BITS`. -/
theorem add_elapsed_mod {timeBits last : Nat} (now : Nat) (hlast : last < 2 ^ timeBits) :
    (last + elapsed timeBits now last) % 2 ^ timeBits = now % 2 ^ timeBits := by
  have hsum : last + (now % 2 ^ timeBits + (2 ^ timeBits - last)) = now % 2 ^ timeBits + 2 ^ timeBits := by omega
  rw [elapsed, Nat.mod_eq_of_lt hlast, Nat.add_mod_mod, hsum, Nat.add_mod_right, Nat.mod_mod]

/-- Settles O45: the sum of `last` and the elapsed time is `now` and one turn of the clock. -/
theorem elapsedIsModular : Obligations.ElapsedIsModular := by
  intro timeBits now last hnow hlast
  exact ⟨elapsed_lt timeBits now last, (add_elapsed_mod now hlast).trans (Nat.mod_eq_of_lt hnow)⟩

/-! ### The decision (R155, R156) -/

section Decision

variable {timeBits now : Nat} {c : LaneConfig} {crc : Crc} {d : DedupRecord}

/-- A new checksum or an expired window is accepted and clears the counter. -/
theorem admitRecord_new (h : crc ≠ d.lastCrc ∨ c.minGap.toNat < elapsed timeBits now d.lastTime) :
    admitRecord timeBits c crc now d = (true, { lastCrc := crc, lastTime := now, repeats := 0 }) :=
  if_pos h

/-- A repeat inside the window is counted, and accepted when the counter is MIN_COUNT. -/
theorem admitRecord_repeat (h : ¬ (crc ≠ d.lastCrc ∨ c.minGap.toNat < elapsed timeBits now d.lastTime)) :
    admitRecord timeBits c crc now d
      = (satRepeats d.repeats == c.minCount, { lastCrc := crc, lastTime := now, repeats := satRepeats d.repeats }) :=
  if_neg h

theorem admitRecord_lastCrc : (admitRecord timeBits c crc now d).2.lastCrc = crc := by
  unfold admitRecord; split <;> rfl

end Decision

/-! ### ADMIT by itself (R151; log 9) -/

theorem admitLane_of_pos_le {cfg : Config} {p : LaneId} {now : Nat} {l : Lane} {r : Bool × DedupRecord}
    (hpos : l.pos.toNat ≤ 25) (hr : admitRecord cfg.timeBits (cfg.lane p) (crcOf cfg.crc l.packet) now l.dedup = r) :
    admitLane cfg p now l = .ok (r.1, { l with dedup := r.2 }) := by
  subst hr
  exact if_neg (Nat.not_lt.2 hpos)

/-- ADMIT completes: its lane gets the record that the decision leaves, and the decision is the answer. -/
theorem exec_admitPacket {p : LaneId} {s : State} {r : Bool × DedupRecord} (hpos : (s.lane p).pos.toNat ≤ 25)
    (hr : admitRecord s.cfg.timeBits (s.cfg.lane p) (crcOf s.cfg.crc (s.lane p).packet) s.now (s.lane p).dedup = r) :
    exec (.admitPacket p) s = .next ((s.setLane p { s.lane p with dedup := r.2 }).answer (.admitted r.1)) := by
  have hexec : exec (.admitPacket p) s = execAdmit p s := rfl
  rw [hexec, execAdmit, admitLane_of_pos_le hpos hr]

/-- Settles O44: the lane differs in its DedupRecord alone, which is that of the branch the decision takes. -/
theorem admitMicroOperation : Obligations.AdmitMicroOperation := by
  intro p s hpos d crc new
  obtain ⟨r, hr⟩ : ∃ r, admitRecord s.cfg.timeBits (s.cfg.lane p) crc s.now d = r := ⟨_, rfl⟩
  have hcrc : r.2.lastCrc = crc := hr ▸ admitRecord_lastCrc
  have htime : r.2.lastTime = s.now := hr ▸ admitRecord_lastTime ..
  have haccept : new → r.1 = true ∧ r.2.repeats = 0 := fun hnew => by
    cases (admitRecord_new hnew).symm.trans hr
    exact ⟨rfl, rfl⟩
  have hcount : ¬ new → r.2.repeats.toNat = min (d.repeats.toNat + 1) 255
      ∧ (r.1 = true ↔ r.2.repeats = (s.cfg.lane p).minCount) := fun hold => by
    cases (admitRecord_repeat hold).symm.trans hr
    exact ⟨satRepeats_toNat _, beq_iff_eq⟩
  refine ⟨_, r.1, exec_admitPacket hpos hr, onlyLane_setLane_answer s p _ _, rfl, ?_⟩
  rw [State.answer_lane, State.lane_setLane]
  exact ⟨hcrc, htime, haccept, hcount, rfl, fun _ => rfl⟩

/-! ### Copies within the window (R155 to R157) -/

theorem withinWindow_cons {timeBits last now : Nat} {c : LaneConfig} {times : List Nat} :
    withinWindow timeBits c last (now :: times) = true
      ↔ elapsed timeBits now last ≤ c.minGap.toNat ∧ withinWindow timeBits c now times = true := by
  rw [withinWindow, Bool.and_eq_true, Nat.ble_eq]

/-- The comparison of the saturated counter with MIN_COUNT. -/
theorem satRepeats_beq (r minCount : BitVec 8) :
    (satRepeats r == minCount) = (min (r.toNat + 1) 255 == minCount.toNat) := by
  rw [Bool.eq_iff_iff, beq_iff_eq, beq_iff_eq, ← satRepeats_toNat, BitVec.toNat_inj]

/-- While copies keep coming within the window, the `i`-th decision compares the counter's start value and `i + 1`
more, saturated at 255, with MIN_COUNT. -/
theorem admitAll_copies {timeBits last : Nat} {c : LaneConfig} {times : List Nat} (crc : Crc) (repeats : BitVec 8)
    (h : withinWindow timeBits c last times = true) :
    admitAll timeBits c crc times { lastCrc := crc, lastTime := last, repeats := repeats }
      = (List.range times.length).map fun i => min (repeats.toNat + i + 1) 255 == c.minCount.toNat := by
  induction times generalizing last repeats with
  | nil => rfl
  | cons now times ih =>
    obtain ⟨hgap, hrest⟩ := withinWindow_cons.1 h
    have hrepeat : ¬ (crc ≠ crc ∨ c.minGap.toNat < elapsed timeBits now last) := by simpa using hgap
    have hshift : ∀ i, min ((satRepeats repeats).toNat + i + 1) 255 = min (repeats.toNat + (i + 1) + 1) 255 := by
      intro i
      rw [satRepeats_toNat]
      omega
    rw [admitAll, admitRecord_repeat hrepeat, ih _ hrest, satRepeats_beq, List.length_cons, List.range_succ_eq_map,
      List.map_cons, List.map_map]
    simp only [hshift]
    rfl

/-- Settles O46: the counter has moved off 0 at every copy, and MIN_COUNT is 0. -/
theorem slidingWindowSuppresses : Obligations.SlidingWindowSuppresses := by
  intro timeBits c crc last repeats times hzero h
  have hne : ∀ i, (min (repeats.toNat + i + 1) 255 == c.minCount.toNat) = false := fun i => by
    rw [hzero, beq_eq_false_iff_ne]
    exact Nat.ne_of_gt (Nat.lt_min.2 ⟨Nat.succ_pos _, by decide⟩)
  rw [admitAll_copies crc repeats h]
  simp only [hne, List.map_const', List.length_range]

/-- Settles O47: the counter stands at `i + 1` at the `i`-th copy, or at 255, which MIN_COUNT is not. -/
theorem repeatIsReportedOnce : Obligations.RepeatIsReportedOnce := by
  intro timeBits c crc last times _ hbelow h
  rw [admitAll_copies crc 0 h]
  refine List.map_congr_left fun i _ => ?_
  have hstart : (0 : BitVec 8).toNat = 0 := rfl
  rw [hstart, Bool.eq_iff_iff, beq_iff_eq, beq_iff_eq]
  omega

end Sys2Proof.Machine
end

section
/-!
PROOF. `S` or `L` in a state that the lane does not use (R25) is `Fail(F_STATE)`, lane by lane (R177, R195, R218, R247).
-/

namespace Sys2Proof.Machine

section Outside

variable {w : Nat} {h : Half} {l : Lane}

/-- R177. -/
theorem secData_outside (hst : inSubset .sec l.state = false) : secData w h l = .fail .state := by
  unfold secData
  cases hs : l.state with
  | sync | trailing | rsv7 => rfl
  | unknown | phaseA | phaseB | confirmed | done => simp [hs, inSubset] at hst

/-- R195. -/
theorem emData_outside (hst : inSubset .em l.state = false) : emData w h l = .fail .state := by
  unfold emData
  cases hs : l.state with
  | phaseA | phaseB | trailing | rsv7 => rfl
  | unknown | sync | confirmed | done => simp [hs, inSubset] at hst

/-- R218. -/
theorem wsData_outside {marker : Bool} (hst : inSubset .ws l.state = false) :
    wsData w marker h l = .fail .state := by
  unfold wsData
  cases hs : l.state with
  | trailing | rsv7 => rfl
  | unknown | sync | phaseA | phaseB | confirmed | done => simp [hs, inSubset] at hst

/-- R247. -/
theorem swData_outside (hst : inSubset .sw l.state = false) : swData w h l = .fail .state := by
  unfold swData
  cases hs : l.state with
  | sync | trailing | rsv7 => rfl
  | unknown | phaseA | phaseB | confirmed | done => simp [hs, inSubset] at hst

end Outside

/-- A step of a data pulse is past the tests for `X` and `G` (R274). -/
theorem stepSec_cls (w : Nat) (h : Half) (l : Lane) : stepSec w h.cls l = secData w h l := by cases h <;> rfl

theorem stepEm_cls (w : Nat) (h : Half) (l : Lane) : stepEm w h.cls l = emData w h l := by cases h <;> rfl

theorem stepWs_cls (w : Nat) (marker : Bool) (h : Half) (l : Lane) :
    stepWs w marker h.cls l = wsData w marker h l := by cases h <;> rfl

theorem stepSw_cls (w : Nat) (h : Half) (l : Lane) : stepSw w h.cls l = swData w h l := by cases h <;> rfl

theorem laneStep_outside {cfg : Config} {p : LaneId} {l : Lane} (h : Half) (hst : inSubset p l.state = false) :
    laneStep cfg p h.cls l = .fail .state := by
  cases p with
  | sec => exact (stepSec_cls _ h l).trans (secData_outside hst)
  | em => exact (stepEm_cls _ h l).trans (emData_outside hst)
  | ws => exact (stepWs_cls _ _ h l).trans (wsData_outside hst)
  | sw => exact (stepSw_cls _ h l).trans (swData_outside hst)

/-- Every lane uses Done (R25). -/
theorem inSubset_done (p : LaneId) : inSubset p .done = true := by cases p <;> rfl

/-- Settles O18: the step fails, and the driver takes the Fail by the lane reset. -/
theorem stateOutsideSubsetResets : Obligations.StateOutsideSubsetResets := by
  intro p st c s hout hc hst
  obtain ⟨h, rfl⟩ := Half.exists_cls hc
  have hd : st ≠ .done := by
    rintro rfl
    exact Bool.false_ne_true (hout.symm.trans (inSubset_done p))
  have hfail : laneStep s.cfg p h.cls (s.lane p) = .fail .state := laneStep_outside h (hst ▸ hout)
  exact ⟨hfail, key_fail hst hd hfail⟩

end Sys2Proof.Machine
end

section
/-!
PROOF. Lane SEC (spec/43_fsm_sec.md). The second half of a pair appends a bit, and two equal halves invert the buffer
with it (R175, R176; `key_secSecondHalf`). A gap with 36 bits keeps the last five bytes (R173; `align_secKeep`), and
a packet passes only with a fold of equal nibbles, which is a byte that `swapNibbles` leaves alone; every
post-processing commutes with the exclusive or and with `swapNibbles`, so the packet that is held passes too (R178 (a)).
-/

namespace Sys2Proof.Machine

/-! ### The second half of a pair (R175, R176) -/

/-- The bit is 1 when the second half is short; two equal halves invert the buffer, the new bit included. -/
theorem secSecondHalf_spec {w : Nat} {first second : Half} {l : Lane} (hw : w = 7 ∨ w = 8) (hb : bufferOk w l)
    (hp : l.pos.toNat < 25) :
    ∃ l1, bufferOk w l1 ∧ AppendedBit w (second == .short) l l1 ∧ OnlyBuffer l l1
      ∧ secSecondHalf w first second l = .cont
          (if second = first then invert { l1 with state := .confirmed } else { l1 with state := .confirmed }) := by
  obtain ⟨l1, happend, hb1, hbit, hframe⟩ := append_spec (v := second == .short) hw hb hp
  exact ⟨l1, hb1, hbit, hframe, by rw [secSecondHalf, happend, Res.inStep]⟩

/-- The key of a second half `b` where lane SEC remembers `a`; `l1` is the lane after the APPEND. -/
theorem key_secSecondHalf {a b : Half} {s : State} (hcfg : configOk s.cfg) (hb : bufferOk s.cfg.sec.w s.sec)
    (hst : s.sec.state = a.phase) (hp : s.sec.pos.toNat < 25) :
    ∃ t l1, exec (keyInstr .sec a.phase b.cls) s = .next t ∧ OnlyLane .sec s t ∧ t.reply = .laneFed false
      ∧ bufferOk s.cfg.sec.w l1 ∧ AppendedBit s.cfg.sec.w (b == .short) s.sec l1 ∧ OnlyBuffer s.sec l1
      ∧ t.sec = if b = a then invert { l1 with state := .confirmed } else { l1 with state := .confirmed } := by
  obtain ⟨l1, hb1, hbit, hframe, hstep⟩ :=
    secSecondHalf_spec (first := a) (second := b) (configOk_w hcfg .sec) hb hp
  rw [← Lane.with_phase hst, ← stepSec_secondHalf, Lane.with_phase hst] at hstep
  obtain ⟨t, ht, honly, hreply, hlane⟩ :=
    key_cont (p := .sec) (s := s) hst a.phase_ne_done hstep (by split <;> exact nofun)
  exact ⟨t, l1, ht, honly, hreply, hb1, hbit, hframe, hlane⟩

/-- An update of the buffer and then of the state, seen with the state put back. -/
theorem OnlyBuffer.restoreState {l l' : Lane} (h : OnlyBuffer l l') :
    { l' with data := l.data, pos := l.pos, bits := l.bits, state := l.state } = l :=
  congrArg (fun m : Lane => { m with state := l.state }) h

/-- Settles O23: unequal halves leave the lane as the APPEND and the move to Confirmed do. -/
theorem secUnequalPairStoresBit : Obligations.SecUnequalPairStoresBit := by
  intro st c v s hrow hst hcfg hb hp
  obtain ⟨a, b, hne, rfl, rfl, rfl⟩ :
      ∃ a b : Half, b ≠ a ∧ st = a.phase ∧ c = b.cls ∧ v = (b == .short) := by
    obtain hrow | hrow := hrow
    · cases hrow; exact ⟨.short, .long, nofun, rfl, rfl, rfl⟩
    · cases hrow; exact ⟨.long, .short, nofun, rfl, rfl, rfl⟩
  obtain ⟨t, l1, ht, honly, hreply, -, hbit, hframe, hlane⟩ := key_secSecondHalf (b := b) hcfg hb hst hp
  rw [if_neg hne] at hlane
  refine ⟨t, ht, honly, hreply, ?_⟩
  rw [hlane]
  exact ⟨hbit, rfl, hframe.restoreState⟩

/-- Settles O24: with equal halves an INVERT follows the APPEND, at the new cursor. -/
theorem secEqualPairInverts : Obligations.SecEqualPairInverts := by
  intro st c v s hrow hst hcfg hb hp
  obtain ⟨a, rfl, rfl, rfl⟩ : ∃ a : Half, st = a.phase ∧ c = a.cls ∧ v = (a == .short) := by
    obtain hrow | hrow := hrow
    · cases hrow; exact ⟨.short, rfl, rfl, rfl⟩
    · cases hrow; exact ⟨.long, rfl, rfl, rfl⟩
  obtain ⟨t, l1, ht, honly, hreply, hb1, hbit, hframe, hlane⟩ := key_secSecondHalf (b := a) hcfg hb hst hp
  rw [if_pos rfl] at hlane
  obtain ⟨-, hread, -⟩ := invert_spec (l := { l1 with state := .confirmed }) hb1
  refine ⟨t, l1, ht, honly, hreply, hbit, ?_⟩
  rw [hlane]
  exact ⟨rfl, rfl, hread, rfl, hframe.restoreState⟩

/-! ### The last five bytes (R172, R173) -/

theorem collected_le_mul_paddedLen {w : Nat} {l : Lane} (h : bufferOk w l) : collected w l ≤ w * paddedLen l := by
  obtain ⟨⟨-, hbits, -⟩, -⟩ := h
  unfold collected paddedLen
  split
  case isTrue h0 => simp [h0]
  case isFalse => rw [Nat.mul_add]; omega

/-- 36 bits fill five bytes, the last one perhaps in part. -/
theorem five_le_paddedLen {w : Nat} {l : Lane} (hw : w = 7 ∨ w = 8) (h : bufferOk w l) (hmin : 36 ≤ collected w l) :
    5 ≤ paddedLen l := by
  have hle := collected_le_mul_paddedLen h
  obtain rfl | rfl := hw <;> omega

/-- Byte `j` of the last five of the padded buffer. -/
def secKept (w : Nat) (l : Lane) (j : Nat) : Byte := paddedByte w l (j + (paddedLen l - 5))

/-- The exclusive or of the first four of the bytes kept (R173). -/
def secFold (w : Nat) (l : Lane) : Byte := secKept w l 0 ^^^ secKept w l 1 ^^^ secKept w l 2 ^^^ secKept w l 3

/-- `l1` holds the last five bytes of the padded buffer of `l`, and nothing else changes. -/
def KeepsLastFive (w : Nat) (l l1 : Lane) : Prop :=
  l1.pos = 5 ∧ l1.bits = 0 ∧ OnlyBuffer l l1
    ∧ ∀ j, l1.data.read j = if j < 5 then secKept w l j else if 5 < paddedLen l then 0x00 else paddedByte w l j

/-- ALIGN to five bytes (R134), with 36 bits or more. -/
theorem align_secKeep {w : Nat} {l : Lane} (hw : w = 7 ∨ w = 8) (h : bufferOk w l) (hmin : 36 ≤ collected w l) :
    ∃ l1, align w secKeep l = .ok l1 ∧ bufferOk w l1 ∧ KeepsLastFive w l l1 := by
  have hfive := five_le_paddedLen hw h hmin
  have hkeep : secKeep.toNat = 5 := rfl
  obtain ⟨l1, halign, hb1, hbits, hpos, hcut, hshort, hframe⟩ := align_spec (max := secKeep) hw h
  simp only [hkeep, alignedLen] at hpos hcut hshort
  refine ⟨l1, halign, hb1, BitVec.eq_of_toNat_eq ?_, hbits, hframe, fun j => ?_⟩
  · rw [hpos]
    split
    · rfl
    · show paddedLen l = 5
      omega
  · by_cases hlong : 5 < paddedLen l
    · rw [hcut ⟨by decide, hlong⟩, if_pos hlong, secKept]
    · rw [hshort (by omega), secKept, show j + (paddedLen l - 5) = j by omega, if_neg hlong, ite_self]

theorem KeepsLastFive.fold4 {w : Nat} {l l1 : Lane} (h : KeepsLastFive w l l1) : fold4 l1.data = secFold w l := by
  obtain ⟨-, -, -, hread⟩ := h
  simp only [Machine.fold4, secFold, hread]
  rfl

theorem foldOk_iff (m : Memory) : foldOk m = true ↔ (fold4 m).toNat % 16 = (fold4 m).toNat / 16 := by
  have hlt := (fold4 m).isLt
  rw [foldOk, beq_iff_eq, ← BitVec.toNat_inj, BitVec.extractLsb'_toNat, BitVec.extractLsb'_toNat,
    Nat.shiftRight_eq_div_pow, Nat.shiftRight_eq_div_pow]
  omega

/-! ### The gap (R173) -/

theorem secGap_of_lt {w : Nat} {l : Lane} (h : collected w l < 36) : secGap w l = .fail .gap :=
  if_neg (Nat.not_le.2 h)

theorem secGap_of_le {w : Nat} {l l1 : Lane} (h : 36 ≤ collected w l) (halign : align w secKeep l = .ok l1) :
    secGap w l = if foldOk l1.data then .complete l1 else .fail .check := by
  rw [secGap, if_pos h, halign, Res.inStep]

/-- A key whose step fails answers what the lane's state then says (R111, R114). -/
theorem key_fail_state {p : LaneId} {st : DecState} {c : PulseClass} {s : State} {cause : FailCause}
    (hst : (s.lane p).state = st) (hd : st ≠ .done) (h : laneStep s.cfg p c (s.lane p) = .fail cause) :
    ∃ t, exec (keyInstr p st c) s = .next t ∧ OnlyLane p s t
      ∧ t.reply = .laneFed (decide ((t.lane p).state = .done)) ∧ LaneIsReset (s.lane p) (t.lane p) := by
  obtain ⟨t, ht, honly, hreply, hreset⟩ := key_fail hst hd h
  have ⟨_, _, _, _, hstate, _⟩ := hreset
  exact ⟨t, ht, honly, by rw [hreply, hstate]; rfl, hreset⟩

/-- Settles O25: by the number of bits and, with 36 or more, by the check of the fold. -/
theorem secGapKeepsLastFive : Obligations.SecGapKeepsLastFive := by
  intro st s hd hst hcfg hb w n kept fold
  rcases Nat.lt_or_ge (collected w s.sec) 36 with hlt | hmin
  · have hfail : laneStep s.cfg .sec .gap s.sec = .fail .gap := secGap_of_lt hlt
    obtain ⟨t, ht, honly, hreply, hreset⟩ := key_fail_state (p := .sec) hst hd hfail
    have hfew : ¬ 36 ≤ collected w s.sec := Nat.not_le.2 hlt
    exact ⟨t, ht, honly, hreply, fun _ => ⟨hfail, hreset⟩, fun hmin => absurd hmin hfew, fun hmin => absurd hmin hfew⟩
  · have hmany : ¬ collected w s.sec < 36 := Nat.not_lt.2 hmin
    obtain ⟨l1, halign, hb1, hkeep⟩ := align_secKeep (configOk_w hcfg .sec) hb hmin
    have hstep : laneStep s.cfg .sec .gap s.sec = if foldOk l1.data then .complete l1 else .fail .check :=
      secGap_of_le hmin halign
    have hcheck : foldOk l1.data = true ↔ fold.toNat % 16 = fold.toNat / 16 := by
      rw [foldOk_iff, hkeep.fold4]
      rfl
    by_cases hpass : foldOk l1.data = true
    · rw [if_pos hpass] at hstep
      obtain ⟨t, ht, honly, hreply, hho⟩ := key_complete (p := .sec) hcfg hst hd hstep hb1
      obtain ⟨hpos, hbits, hframe, hread⟩ := hkeep
      exact ⟨t, ht, honly, hreply, fun hlt => absurd hlt hmany,
        fun _ hne => absurd (hcheck.1 hpass) hne, fun _ _ => ⟨l1, hpos, hbits, hframe, hread, hho⟩⟩
    · rw [if_neg hpass] at hstep
      obtain ⟨t, ht, honly, hreply, hreset⟩ := key_fail_state (p := .sec) hst hd hstep
      exact ⟨t, ht, honly, hreply, fun hlt => absurd hlt hmany, fun _ _ => ⟨hstep, hreset⟩,
        fun _ heq => absurd (hcheck.2 heq) hpass⟩

/-! ### The packet that is held (R178 (a)) -/

/-- A packet of lane SEC as the step hands it over: five bytes that pass the check. -/
def SecPacket (l : Lane) : Prop := l.pos = 5 ∧ l.bits = 0 ∧ foldOk l.data = true

/-- A step of lane SEC completes at a gap alone, with five bytes that pass the check (R173, R174 to R177). -/
theorem stepSec_completes {w : Nat} {c : PulseClass} {l : Lane} (hw : w = 7 ∨ w = 8) (hb : bufferOk w l) :
    (stepSec w c l).All (fun _ => True) SecPacket := by
  have pair : ∀ a b, (secSecondHalf w a b l).All (fun _ => True) SecPacket := fun a b =>
    append_inStep hw hb fun _ _ _ _ => trivial
  have data : ∀ h, (secData w h l).All (fun _ => True) SecPacket := fun h => by
    unfold secData
    cases l.state with
    | unknown | confirmed => trivial
    | phaseA | phaseB => exact pair _ h
    | sync | trailing | done | rsv7 => trivial
  cases c with
  | short => exact data .short
  | long => exact data .long
  | outOfRange => trivial
  | gap =>
    rw [stepSec]
    rcases Nat.lt_or_ge (collected w l) 36 with hlt | hmin
    · rw [secGap_of_lt hlt]
      trivial
    · obtain ⟨l1, halign, -, hpos, hbits, -⟩ := align_secKeep hw hb hmin
      rw [secGap_of_le hmin halign]
      split
      case isTrue hpass => exact ⟨hpos, hbits, hpass⟩
      case isFalse => trivial

/-- A lane-level FEED that enters Done has handed over the packet of a completed step (R115, R122). -/
theorem laneFeed_handsOver {cfg : Config} {p : LaneId} {now : Nat} {c : PulseClass} {l l' : Lane}
    (hcfg : configOk cfg) (hb : bufferOk (cfg.lane p).w l) (h : laneFeed cfg p now c l = .ok l')
    (hd : l.state ≠ .done) (hd' : l'.state = .done) :
    ∃ l1, laneStep cfg p c l = .complete l1 ∧ HandedOver cfg p now l1 l' := by
  obtain ⟨l1, hstep, -⟩ := laneFeed_enters_done hcfg hb h hd hd'
  obtain ⟨hb1, -⟩ := (laneStep_keepsBuffer hcfg hb).of_complete hstep
  obtain ⟨l2, hover, hho, -⟩ := completeLane_spec (now := now) (configOk_w hcfg p) hb1
  rw [laneFeed, if_neg hd, hstep, StepOut.finish, hover] at h
  cases h
  exact ⟨l1, hstep, hho⟩

/-- The length and the bytes of a packet that is held (R115). -/
theorem HandedOver.held {cfg : Config} {p : LaneId} {now : Nat} {l l' : Lane} (h : HandedOver cfg p now l l')
    (hd : l'.state = .done) :
    l'.pos.toNat = paddedLen l
      ∧ ∀ j, j < paddedLen l → l'.data.read j = postByte (cfg.lane p).post (paddedByte (cfg.lane p).w l j) := by
  have haccept := h.accepted_of_done hd
  obtain ⟨hheld, -⟩ := h
  obtain ⟨-, hpacket, hpos, -⟩ := hheld haccept
  rw [Lane.packet, Memory.bytes, hpos, completedPacket, List.map_inj_left] at hpacket
  exact ⟨hpos, fun j hj => hpacket j (List.mem_range.2 hj)⟩

/-- The nibbles of a byte are equal when their exchange leaves it alone. -/
theorem swapNibbles_eq_self_iff (b : Byte) : swapNibbles b = b ↔ b.toNat % 16 = b.toNat / 16 := by
  have hlt := b.isLt
  rw [← BitVec.toNat_inj, toNat_swapNibbles]
  omega

theorem postByte_commute_swapNibbles (post : Post) : Function.Commute (postByte post) swapNibbles := by
  cases post with
  | none => exact fun _ => rfl
  | revb => exact bitrev8_commute_swapNibbles
  | revn => exact fun _ => rfl

/-- Post-processing keeps the equality of the nibbles. -/
theorem postByte_nibbles {post : Post} {b : Byte} (h : b.toNat % 16 = b.toNat / 16) :
    (postByte post b).toNat % 16 = (postByte post b).toNat / 16 := by
  rw [← swapNibbles_eq_self_iff] at h ⊢
  rw [← postByte_commute_swapNibbles post b, h]

/-- A packet of lane SEC is already padded. -/
theorem SecPacket.padded {w : Nat} {l : Lane} (h : SecPacket l) :
    paddedLen l = 5 ∧ ∀ j, paddedByte w l j = l.data.read j := by
  obtain ⟨hpos, hbits, -⟩ := h
  refine ⟨?_, fun j => if_pos hbits⟩
  rw [paddedLen, if_pos hbits, hpos]
  rfl

/-- Settles O50: the bytes held are the post-processed ones of a packet that passes the check, so their fold is the
post-processed fold. -/
theorem secPacketsPassTheCheck : Obligations.SecPacketsPassTheCheck := by
  intro cfg now c l l' hcfg hb h hd hd' fold
  obtain ⟨l1, hstep, hho⟩ := laneFeed_handsOver (p := .sec) hcfg hb h hd hd'
  have hpacket : SecPacket l1 := (stepSec_completes (configOk_w hcfg .sec) hb).of_complete hstep
  obtain ⟨hlen, hbyte⟩ := hpacket.padded (w := (cfg.lane .sec).w)
  obtain ⟨hpos, hread⟩ := hho.held hd'
  simp only [hlen, hbyte] at hpos hread
  have hfold : fold = postByte (cfg.lane .sec).post (fold4 l1.data) := by
    simp only [fold, fold4, postByte_xor]
    rw [hread 0 (by decide), hread 1 (by decide), hread 2 (by decide), hread 3 (by decide)]
  obtain ⟨-, -, hcheck⟩ := hpacket
  refine ⟨BitVec.eq_of_toNat_eq hpos, ?_⟩
  rw [hfold]
  exact postByte_nibbles ((foldOk_iff _).1 hcheck)

end Sys2Proof.Machine
end

section
/-!
PROOF. Lane EM (spec/44_fsm_em.md): the wake tone, the pulse that ends the preamble and the data pulses are the three
states its step tells apart (R192 to R194). The terminating gap (R191) is the one test of the length that lanes WS and
SW make too (R211, R241; `laneStep_gap`).
-/

namespace Sys2Proof.Machine

/-! ### The terminating gap (R191, R211, R241) -/

/-- The three lanes whose gap tests the length alone, each with the least number of bytes it takes. -/
theorem laneStep_gap {cfg : Config} {p : LaneId} {least : Nat} {l : Lane}
    (hrow : (p, least) = (.em, 9) ∨ (p, least) = (.ws, 6) ∨ (p, least) = (.sw, 5)) :
    laneStep cfg p .gap l = if least ≤ l.pos.toNat then .complete l else .fail .gap := by
  obtain hrow | hrow | hrow := hrow <;> cases hrow <;> rfl

/-- Settles O22: a packet of the least length or more is handed over, and a shorter one is a Fail, which the driver
takes by the lane reset. -/
theorem gapCompletesByLength : Obligations.GapCompletesByLength := by
  intro p least st s hrow hd hst hcfg hb
  have hstep := laneStep_gap (cfg := s.cfg) (l := s.lane p) hrow
  rcases Nat.lt_or_ge (s.lane p).pos.toNat least with hshort | hlong
  · rw [if_neg (Nat.not_le.2 hshort)] at hstep
    obtain ⟨t, ht, honly, hreply, hreset⟩ := key_fail_state hst hd hstep
    exact ⟨t, ht, honly, hreply, fun hlong => absurd hlong (Nat.not_le.2 hshort), fun _ => ⟨hstep, hreset⟩⟩
  · rw [if_pos hlong] at hstep
    obtain ⟨t, ht, honly, hreply, hover⟩ := key_complete hcfg hst hd hstep hb
    exact ⟨t, ht, honly, hreply, fun _ => hover, fun hshort => absurd hshort (Nat.not_lt.2 hlong)⟩

/-! ### A data pulse (R192 to R194) -/

section Pulse

variable {cfg : Config} {h : Half} {l : Lane}

theorem laneStep_em_unknown (hst : l.state = .unknown) : laneStep cfg .em h.cls l = emWake h l := by
  rw [laneStep, stepEm_cls, emData, hst]

theorem laneStep_em_sync (hst : l.state = .sync) : laneStep cfg .em h.cls l = emSync h l := by
  rw [laneStep, stepEm_cls, emData, hst]

theorem laneStep_em_confirmed (hst : l.state = .confirmed) :
    laneStep cfg .em h.cls l = emBit (cfg.lane .em).w h l := by
  rw [laneStep, stepEm_cls, emData, hst]

/-- The lane after a short pulse of the wake tone: the run is counted up to 21, and a run above 20 moves to Sync. -/
theorem emWake_short (l : Lane) :
    emWake .short l = .cont
      { l with run := satRun l.run, state := if 20 < (satRun l.run).toNat then .sync else l.state } := by
  simp only [emWake, emRun]
  split <;> rfl

end Pulse

/-- Settles O26: a short pulse leaves the lane of `emWake_short`, and a long one is a Fail. -/
theorem emWakeToneCounts : Obligations.EmWakeToneCounts := by
  intro s hst
  have hshort := (laneStep_em_unknown (cfg := s.cfg) (h := .short) hst).trans (emWake_short s.em)
  have hlong : laneStep s.cfg .em .long s.em = .fail .preamble := laneStep_em_unknown (h := .long) hst
  rw [satRun_toNat, hst] at hshort
  obtain ⟨t, ht, honly, hreply, hlane⟩ :=
    key_cont (p := .em) (s := s) hst nofun hshort (by dsimp only; split <;> exact nofun)
  have hem : t.em = _ := hlane
  refine ⟨⟨t, ht, honly, hreply, ?_⟩, hlong, key_fail (p := .em) hst nofun hlong⟩
  rw [hem]
  exact ⟨satRun_toNat _, rfl, rfl, fun _ => rfl⟩

/-- Settles O27: a short pulse writes the state alone, and a long one is a Fail. -/
theorem emSyncPulseConfirms : Obligations.EmSyncPulseConfirms := by
  intro s hst
  have hshort : laneStep s.cfg .em .short s.em = .cont { s.em with state := .confirmed } :=
    laneStep_em_sync (h := .short) hst
  have hlong : laneStep s.cfg .em .long s.em = .fail .preamble := laneStep_em_sync (h := .long) hst
  obtain ⟨t, ht, honly, hreply, hlane⟩ := key_cont (p := .em) (s := s) hst nofun hshort nofun
  have hem : t.em = { s.em with state := .confirmed } := hlane
  exact ⟨⟨t, ht, honly, hreply, hem, fun _ => by rw [hem]⟩, hlong, key_fail (p := .em) hst nofun hlong⟩

/-- Settles O28: the step is an APPEND of the bit, which overflows at a full buffer alone. -/
theorem emDataPulseStoresBit : Obligations.EmDataPulseStoresBit := by
  intro c v s hrow hst hcfg hb
  obtain ⟨h, rfl, rfl⟩ : ∃ h : Half, c = h.cls ∧ v = (h == .long) := by
    obtain hrow | hrow := hrow
    · cases hrow; exact ⟨.short, rfl, rfl⟩
    · cases hrow; exact ⟨.long, rfl, rfl⟩
  obtain hfree | hfull := free_or_full hb
  · obtain ⟨l', happend, -, hbit, hframe⟩ := append_spec (v := h == .long) (configOk_w hcfg .em) hb hfree
    have hstep : laneStep s.cfg .em h.cls s.em = .cont l' := by
      rw [laneStep_em_confirmed hst, emBit, happend, Res.inStep]
    have hstate : l'.state = .confirmed := hframe.state.trans hst
    obtain ⟨t, ht, honly, hreply, rfl⟩ := key_cont (p := .em) (s := s) hst nofun hstep (hstate ▸ nofun)
    exact ⟨t, ht, honly, hreply, fun _ => ⟨hbit, hframe⟩, fun hfull => absurd hfull hfree.ne⟩
  · have hfail : laneStep s.cfg .em h.cls s.em = .fail .overflow := laneStep_em_full hst hfull
    obtain ⟨t, ht, honly, hreply, hreset⟩ := key_fail (p := .em) (s := s) hst nofun hfail
    exact ⟨t, ht, honly, hreply, fun hfree => absurd hfull hfree.ne, fun _ => ⟨hfail, hreset⟩⟩

end Sys2Proof.Machine
end

section
/-!
PROOF. The sampler's first half, which lanes SEC, WS and SW remember and nothing more (R174, R214, R243;
`laneStep_firstHalf_row`), and the second halves of lanes WS and SW that form no pair (R215, R244).
-/

namespace Sys2Proof.Machine

theorem SameBytes.of_data_eq {l l' : Lane} (h : l'.data = l.data) : SameBytes l l' := fun _ => by rw [h]

/-! ### The first half of a pair (R174, R214, R243) -/

theorem firstHalf_eq (a : Half) (l : Lane) : firstHalf a l = .cont { l with state := a.phase } := by cases a <;> rfl

/-- Lane SEC has no preamble: its sampler rests in Unknown too (R174). -/
theorem laneStep_sec_unknown {cfg : Config} {l : Lane} (a : Half) (hst : l.state = .unknown) :
    laneStep cfg .sec a.cls l = firstHalf a l := by
  rw [laneStep, stepSec_cls, secData, hst]

/-- The states in which the sampler of a lane rests. -/
theorem laneStep_firstHalf_row {cfg : Config} {p : LaneId} {st : DecState} {l : Lane} (a : Half)
    (hrow : (p, st) = (.sec, .unknown) ∨ (p, st) = (.sec, .confirmed) ∨ (p, st) = (.ws, .confirmed)
      ∨ (p, st) = (.sw, .confirmed)) (hst : l.state = st) :
    st ≠ .done ∧ laneStep cfg p a.cls l = .cont { l with state := a.phase } := by
  obtain hrow | hrow | hrow | hrow := hrow <;> cases hrow
  · exact ⟨nofun, (laneStep_sec_unknown a hst).trans (firstHalf_eq a l)⟩
  all_goals exact ⟨nofun, laneStep_firstHalf a nofun hst⟩

/-- Settles O19: each key is a step of `laneStep_firstHalf_row`, which writes the state alone. -/
theorem firstHalfIsRemembered : Obligations.FirstHalfIsRemembered := by
  intro p st s hrow hst
  have remember (a : Half) : ∃ t, exec (keyInstr p st a.cls) s = .next t ∧ OnlyLane p s t ∧ t.reply = .laneFed false
      ∧ t.lane p = { s.lane p with state := a.phase } ∧ SameBytes (s.lane p) (t.lane p) := by
    obtain ⟨hd, hstep⟩ := laneStep_firstHalf_row (cfg := s.cfg) a hrow hst
    obtain ⟨t, ht, honly, hreply, hlane⟩ := key_cont hst hd hstep a.phase_ne_done
    exact ⟨t, ht, honly, hreply, hlane, .of_data_eq (by rw [hlane])⟩
  exact ⟨remember .short, remember .long⟩

/-! ### The second half of a pair on lanes WS and SW (R215, R244) -/

section SecondHalf

variable {cfg : Config} {a b : Half} {l : Lane}

theorem laneStep_ws_secondHalf (hst : l.state = a.phase) :
    laneStep cfg .ws b.cls l = wsSecondHalf cfg.ws.w cfg.wsMarker a b l := by
  rw [← Lane.with_phase hst]
  exact stepWs_secondHalf _ _ a b l

theorem laneStep_sw_secondHalf (hst : l.state = a.phase) :
    laneStep cfg .sw b.cls l = swSecondHalf cfg.sw.w a b l := by
  rw [← Lane.with_phase hst]
  exact stepSw_secondHalf _ a b l

end SecondHalf

/-- Equal halves on lane WS and mixed ones on lane SW. -/
theorem laneStep_badPair {cfg : Config} {p : LaneId} {st : DecState} {c : PulseClass} {l : Lane}
    (hrow : (p, st, c) = (.ws, .phaseA, .short) ∨ (p, st, c) = (.ws, .phaseB, .long)
      ∨ (p, st, c) = (.sw, .phaseA, .long) ∨ (p, st, c) = (.sw, .phaseB, .short)) (hst : l.state = st) :
    st ≠ .done ∧ laneStep cfg p c l = .fail .pair := by
  obtain hrow | hrow | hrow | hrow := hrow <;> cases hrow
  · exact ⟨nofun, laneStep_ws_secondHalf (a := .short) (b := .short) hst⟩
  · exact ⟨nofun, laneStep_ws_secondHalf (a := .long) (b := .long) hst⟩
  · exact ⟨nofun, laneStep_sw_secondHalf (a := .short) (b := .long) hst⟩
  · exact ⟨nofun, laneStep_sw_secondHalf (a := .long) (b := .short) hst⟩

/-- Settles O20: the step fails, and the driver takes the Fail by the lane reset. -/
theorem badPairResets : Obligations.BadPairResets := by
  intro p st c s hrow hst
  obtain ⟨hd, hfail⟩ := laneStep_badPair (cfg := s.cfg) hrow hst
  exact ⟨hfail, key_fail hst hd hfail⟩

end Sys2Proof.Machine
end

section
/-!
PROOF. Lane WS (spec/45_fsm_ws.md). The alternating run has four outcomes (R212), the sync pair two (R213). A pair of
unequal halves is a raw bit (R215; `laneStep_ws_bit`): a marker is counted and compared (`wsBit_marker`), another bit is
appended, and the type is captured (`wsBit_data`, `wsCapture_spec`). A stored bit ends the message or leaves the lane in
Confirmed, by the count of raw bits (R217; `key_wsEndBit`), and no marker ends it (`wsEndBit_of_marker`).
-/

namespace Sys2Proof.Machine

/-! ### The alternating run and the sync pair (R212, R213) -/

section Preamble

variable {cfg : Config} {h : Half} {l : Lane}

theorem laneStep_ws_unknown (hst : l.state = .unknown) : laneStep cfg .ws h.cls l = wsRun h l := by
  rw [laneStep, stepWs_cls, wsData, hst]

theorem laneStep_ws_sync (hst : l.state = .sync) : laneStep cfg .ws h.cls l = wsSync h l := by
  rw [laneStep, stepWs_cls, wsData, hst]

theorem wsRun_first (hrun : l.run = 0) : wsRun h l = .cont { l with run := 1, prev := h.toBit } := if_pos hrun

theorem wsRun_toggle (hrun : l.run ≠ 0) (hne : h.toBit ≠ l.prev) :
    wsRun h l = .cont { l with run := satRun l.run, prev := h.toBit } := by
  rw [wsRun, if_neg hrun, if_pos hne]

/-- The repeated pulse is the short half of the sync pair. -/
def wsSyncDue (h : Half) (l : Lane) : Prop := h = .short ∧ 14 ≤ l.run.toNat ∧ l.run.toNat ≤ 20

theorem wsRun_sync (hrun : l.run ≠ 0) (heq : h.toBit = l.prev) (hdue : wsSyncDue h l) :
    wsRun h l = .cont { l with state := .sync } := by
  rw [wsRun, if_neg hrun, if_neg (not_not_intro heq)]
  exact if_pos hdue

theorem wsRun_broken (hrun : l.run ≠ 0) (heq : h.toBit = l.prev) (hdue : ¬ wsSyncDue h l) :
    wsRun h l = .fail .preamble := by
  rw [wsRun, if_neg hrun, if_neg (not_not_intro heq)]
  exact if_neg hdue

end Preamble

theorem Half.cls_eq_short (h : Half) : h.cls = .short ↔ h = .short := by cases h <;> decide

/-- Settles O29: by whether a run has begun, whether the pulse continues it, and whether its end is the sync pair's. -/
theorem wsAlternatingRun : Obligations.WsAlternatingRun := by
  intro c bit s hrow hst
  obtain ⟨h, rfl, rfl⟩ : ∃ h : Half, c = h.cls ∧ bit = h.toBit := by
    obtain hrow | hrow := hrow
    · cases hrow; exact ⟨.short, rfl, rfl⟩
    · cases hrow; exact ⟨.long, rfl, rfl⟩
  have hstep := laneStep_ws_unknown (cfg := s.cfg) (h := h) hst
  have hunknown : s.ws.state ≠ .done := hst ▸ nofun
  have goOn {l' : Lane} (e : wsRun h s.ws = .cont l') := key_cont (p := .ws) hst nofun (hstep.trans e)
  rw [Half.cls_eq_short]
  by_cases hrun : s.ws.run = 0
  · obtain ⟨t, ht, honly, hreply, hlane⟩ := goOn (wsRun_first hrun) hunknown
    have hws : t.ws = _ := hlane
    exact ⟨t, ht, honly, hreply, fun _ => ⟨hws, .of_data_eq (by rw [hws])⟩, fun hne => absurd hrun hne,
      fun hne => absurd hrun hne, fun hne => absurd hrun hne⟩
  by_cases heq : h.toBit = s.ws.prev
  · by_cases hdue : wsSyncDue h s.ws
    · obtain ⟨t, ht, honly, hreply, hlane⟩ := goOn (wsRun_sync hrun heq hdue) nofun
      have hws : t.ws = _ := hlane
      exact ⟨t, ht, honly, hreply, fun h0 => absurd h0 hrun, fun _ hne => absurd heq hne,
        fun _ _ _ _ _ => ⟨hws, .of_data_eq (by rw [hws])⟩, fun _ _ hnot => absurd hdue hnot⟩
    · have hfail := hstep.trans (wsRun_broken hrun heq hdue)
      obtain ⟨t, ht, honly, hreply, hreset⟩ := key_fail (p := .ws) hst nofun hfail
      exact ⟨t, ht, honly, hreply, fun h0 => absurd h0 hrun, fun _ hne => absurd heq hne,
        fun _ _ hs hlo hhi => absurd ⟨hs, hlo, hhi⟩ hdue, fun _ _ _ => ⟨hfail, hreset⟩⟩
  · obtain ⟨t, ht, honly, hreply, hlane⟩ := goOn (wsRun_toggle hrun heq) hunknown
    have hws : t.ws = _ := hlane
    refine ⟨t, ht, honly, hreply, fun h0 => absurd h0 hrun, fun _ _ => ?_, fun _ e => absurd e heq,
      fun _ e => absurd e heq⟩
    rw [hws]
    exact ⟨satRun_toNat _, rfl, rfl, .of_data_eq rfl⟩

/-- Settles O30: a long pulse writes the state alone, and a short one is a Fail. -/
theorem wsSyncPairConfirms : Obligations.WsSyncPairConfirms := by
  intro s hst
  have hlong : laneStep s.cfg .ws .long s.ws = .cont { s.ws with state := .confirmed } :=
    laneStep_ws_sync (h := .long) hst
  have hshort : laneStep s.cfg .ws .short s.ws = .fail .preamble := laneStep_ws_sync (h := .short) hst
  obtain ⟨t, ht, honly, hreply, hlane⟩ := key_cont (p := .ws) (s := s) hst nofun hlong nofun
  have hws : t.ws = { s.ws with state := .confirmed } := hlane
  exact ⟨⟨t, ht, honly, hreply, hws, .of_data_eq (by rw [hws])⟩, hshort, key_fail (p := .ws) hst nofun hshort⟩

/-! ### A raw bit (R215, R216) -/

/-- Two unequal halves are a raw bit: short then long is 1, long then short is 0. -/
theorem laneStep_ws_bit {cfg : Config} {st : DecState} {c : PulseClass} {v : Bool} {l : Lane}
    (hrow : (st, c, v) = (.phaseA, .long, true) ∨ (st, c, v) = (.phaseB, .short, false)) (hst : l.state = st) :
    st ≠ .done ∧ laneStep cfg .ws c l = wsBit cfg.ws.w cfg.wsMarker v l := by
  obtain hrow | hrow := hrow <;> cases hrow
  · exact ⟨nofun, laneStep_ws_secondHalf (a := .short) (b := .long) hst⟩
  · exact ⟨nofun, laneStep_ws_secondHalf (a := .long) (b := .short) hst⟩

/-- The captured type fixes the count of raw bits, and it is reached (R217). -/
theorem wsCountMatch_iff (l : Lane) : wsCountMatch l = true
    ↔ l.mvalid = true ∧ (l.mtype = 1 ∧ l.nbits.toNat = 49 ∨ l.mtype = 7 ∧ l.nbits.toNat = 79) := by
  simp only [wsCountMatch, Bool.and_eq_true, Bool.or_eq_true, beq_iff_eq]

section RawBit

variable {w : Nat} {marker v : Bool} {l : Lane}

/-- No message ends on a marker: neither 49 nor 79 is a multiple of 5. -/
theorem wsEndBit_of_marker (h : l.nbits.toNat % 5 = 0) : wsEndBit l = .cont { l with state := .confirmed } := by
  have hcount : ¬ wsCountMatch { l with state := .confirmed } = true := by
    rw [wsCountMatch_iff]
    simp only
    omega
  rw [wsEndBit, if_neg hcount]

/-- R216: a marker is counted and not stored; a wrong one fails. -/
theorem wsBit_marker (hn : l.nbits.toNat < 255) (hraw : (l.nbits.toNat + 1) % 5 = 0) :
    wsBit w marker v l
      = if v ≠ marker then .fail .marker else .cont { l with nbits := l.nbits + 1, state := .confirmed } := by
  rw [← toNat_succ hn] at hraw
  have hmarker : isMarkerBit (l.nbits + 1) = true := beq_iff_eq.2 hraw
  simp only [wsBit, hmarker, if_true, wsEndBit_of_marker (l := { l with nbits := l.nbits + 1 }) hraw]

/-- R216: another bit is appended, `l0` being the lane after it. -/
theorem wsBit_data (hw : w = 7 ∨ w = 8) (hb : bufferOk w l) (hp : l.pos.toNat < 25) (hn : l.nbits.toNat < 255)
    (hraw : (l.nbits.toNat + 1) % 5 ≠ 0) :
    ∃ l0, bufferOk w l0 ∧ AppendedBit w v l l0 ∧ OnlyBuffer { l with nbits := l.nbits + 1 } l0
      ∧ wsBit w marker v l = wsEndBit (wsCapture l0) := by
  have hmarker : isMarkerBit (l.nbits + 1) = false := beq_eq_false_iff_ne.2 (toNat_succ hn ▸ hraw)
  obtain ⟨l0, happend, hb0, hbit, hframe⟩ := append_spec (v := v) (l := { l with nbits := l.nbits + 1 }) hw hb hp
  refine ⟨l0, hb0, hbit, hframe, ?_⟩
  simp only [wsBit, hmarker, happend, Res.inStep, Bool.false_eq_true, if_false]

end RawBit

/-- Settles O31: a marker writes `nbits` and the state alone, and a wrong one is a Fail. -/
theorem wsMarkerIsChecked : Obligations.WsMarkerIsChecked := by
  intro st c v s hrow hst hn hraw
  obtain ⟨hd, hstep⟩ := laneStep_ws_bit (cfg := s.cfg) hrow hst
  rw [wsBit_marker hn hraw] at hstep
  by_cases hv : v = s.cfg.wsMarker
  · rw [if_neg (not_not_intro hv)] at hstep
    obtain ⟨t, ht, honly, hreply, hlane⟩ := key_cont (p := .ws) hst hd hstep nofun
    have hws : t.ws = _ := hlane
    refine ⟨t, ht, honly, hreply, fun _ => ?_, fun hne => absurd hv hne⟩
    rw [hws]
    exact ⟨toNat_succ hn, rfl, rfl, .of_data_eq rfl⟩
  · rw [if_pos hv] at hstep
    obtain ⟨t, ht, honly, hreply, hreset⟩ := key_fail (p := .ws) hst hd hstep
    exact ⟨t, ht, honly, hreply, fun e => absurd e hv, fun _ => ⟨hstep, hreset⟩⟩

/-! ### The capture of the type and the end by count (R216, R217) -/

theorem captureDue_iff (l : Lane) : captureDue l = true ↔ l.mvalid = false ∧ l.pos = 1 ∧ l.bits = 0 := by
  simp only [captureDue, Bool.and_eq_true, Bool.not_eq_true', beq_iff_eq, and_assoc]

/-- The capture writes nothing but the type, and it writes the low nibble of slot 0 when it is due. -/
theorem wsCapture_spec (l : Lane) :
    ∃ mtype mvalid, wsCapture l = { l with mtype := mtype, mvalid := mvalid }
      ∧ (captureDue l = true → mvalid = true ∧ mtype.toNat = (l.data.read 0).toNat % 16)
      ∧ (¬ captureDue l = true → mvalid = l.mvalid ∧ mtype = l.mtype) := by
  by_cases hdue : captureDue l = true
  · refine ⟨_, _, if_pos hdue, fun _ => ⟨rfl, ?_⟩, fun hnot => absurd hdue hnot⟩
    rw [BitVec.extractLsb'_toNat, Nat.shiftRight_zero]
  · exact ⟨l.mtype, l.mvalid, if_neg hdue, fun h => absurd h hdue, fun _ => ⟨rfl, rfl⟩⟩

/-- An APPEND of a counted raw bit, seen with the registers of a raw bit put back. -/
theorem OnlyBuffer.restoreRawBit {n : BitVec 8} {l l' : Lane} (h : OnlyBuffer { l with nbits := n } l') :
    { l' with data := l.data, pos := l.pos, bits := l.bits, nbits := l.nbits, state := l.state, mtype := l.mtype,
              mvalid := l.mvalid } = l :=
  congrArg (fun m : Lane => { m with nbits := l.nbits, state := l.state, mtype := l.mtype, mvalid := l.mvalid }) h

/-- The key of a step that comes to the end of a raw bit: the packet is handed over or the lane rests, by the count. -/
theorem key_wsEndBit {st : DecState} {c : PulseClass} {s : State} {l : Lane} (hcfg : configOk s.cfg)
    (hst : s.ws.state = st) (hd : st ≠ .done) (hb : bufferOk s.cfg.ws.w l)
    (hstep : laneStep s.cfg .ws c s.ws = wsEndBit l) :
    ∃ t, exec (keyInstr .ws st c) s = .next t ∧ OnlyLane .ws s t
      ∧ t.reply = .laneFed (decide (t.ws.state = .done))
      ∧ (wsCountMatch { l with state := .confirmed } = true →
          HandedOver s.cfg .ws s.now { l with state := .confirmed } t.ws)
      ∧ (¬ wsCountMatch { l with state := .confirmed } = true → t.ws = { l with state := .confirmed }) := by
  rw [wsEndBit] at hstep
  by_cases hcount : wsCountMatch { l with state := .confirmed } = true
  · obtain ⟨t, ht, honly, hreply, hover⟩ := key_complete (p := .ws) hcfg hst hd (hstep.trans (if_pos hcount)) hb
    exact ⟨t, ht, honly, hreply, fun _ => hover, fun hnot => absurd hcount hnot⟩
  · obtain ⟨t, ht, honly, hreply, hlane⟩ := key_cont (p := .ws) hst hd (hstep.trans (if_neg hcount)) nofun
    have hws : t.ws = { l with state := .confirmed } := hlane
    exact ⟨t, ht, honly, by rw [hreply, hws]; rfl, fun hc => absurd hc hcount, fun _ => hws⟩

/-- Settles O32: the lane the step leaves is the appended one with the type captured and the state Confirmed. -/
theorem wsDataBitIsStored : Obligations.WsDataBitIsStored := by
  intro st c v s hrow hst hcfg hb hp hn hraw
  obtain ⟨hd, hstep⟩ := laneStep_ws_bit (cfg := s.cfg) hrow hst
  obtain ⟨l0, hb0, hbit, hframe, hend⟩ :=
    wsBit_data (marker := s.cfg.wsMarker) (v := v) (configOk_w hcfg .ws) hb hp hn hraw
  obtain ⟨mtype, mvalid, hcap, hdue, hkept⟩ := wsCapture_spec l0
  obtain ⟨-, -, -, -, hnbits, -, -, hmtype, hmvalid, -⟩ := hframe.regs
  rw [captureDue_iff, hmvalid] at hdue hkept
  rw [hmtype] at hkept
  have hcount : l0.nbits.toNat = s.ws.nbits.toNat + 1 := by rw [hnbits, toNat_succ hn]
  obtain ⟨t, ht, honly, hreply, hover, hrest⟩ :=
    key_wsEndBit (l := { l0 with mtype := mtype, mvalid := mvalid }) hcfg hst hd hb0
      (hstep.trans (hend.trans (congrArg wsEndBit hcap)))
  rw [wsCountMatch_iff] at hover hrest
  exact ⟨t, { l0 with mtype := mtype, mvalid := mvalid, state := .confirmed }, ht, honly, hreply, hbit, hcount, rfl,
    hdue, hkept, hframe.restoreRawBit, hover, hrest⟩

end Sys2Proof.Machine
end

section
/-!
PROOF. Lane SW (spec/46_fsm_sw.md). The preamble counts in Unknown (R242). A pair of equal halves is a raw bit (R244;
`laneStep_sw_bit`): a parity bit is compared with the accumulator and may end the message (R245, R246;
`swBit_parity`), another bit is appended and never ends it (`swBit_data`). A message ends with 40 bits collected
(`stepSw_completes`), which are five bytes of 8 bits (R248 (a)).
-/

namespace Sys2Proof.Machine

/-! ### The preamble (R242) -/

theorem laneStep_sw_unknown {cfg : Config} {h : Half} {l : Lane} (hst : l.state = .unknown) :
    laneStep cfg .sw h.cls l = swRunIn h l := by
  rw [laneStep, stepSw_cls, swData, hst]

/-- Settles O33: a short pulse writes `run` alone; a long one writes the state alone, or is a Fail, by the run. -/
theorem swPreambleCounts : Obligations.SwPreambleCounts := by
  intro s hst
  have hshort : laneStep s.cfg .sw .short s.sw = .cont { s.sw with run := satRun s.sw.run } :=
    laneStep_sw_unknown (h := .short) hst
  have hlong : laneStep s.cfg .sw .long s.sw
      = if 20 < s.sw.run.toNat then .cont { s.sw with state := .confirmed } else .fail .preamble :=
    laneStep_sw_unknown (h := .long) hst
  constructor
  · obtain ⟨t, ht, honly, hreply, hlane⟩ := key_cont (p := .sw) (s := s) hst nofun hshort (hst ▸ nofun)
    have hsw : t.sw = { s.sw with run := satRun s.sw.run } := hlane
    refine ⟨t, ht, honly, hreply, ?_⟩
    rw [hsw]
    exact ⟨satRun_toNat _, rfl, .of_data_eq rfl⟩
  · by_cases hrun : 20 < s.sw.run.toNat
    · rw [if_pos hrun] at hlong
      obtain ⟨t, ht, honly, hreply, hlane⟩ := key_cont (p := .sw) (s := s) hst nofun hlong nofun
      have hsw : t.sw = { s.sw with state := .confirmed } := hlane
      exact ⟨t, ht, honly, hreply, fun _ => ⟨hsw, .of_data_eq (by rw [hsw])⟩,
        fun hle => absurd hrun (Nat.not_lt.2 hle)⟩
    · rw [if_neg hrun] at hlong
      obtain ⟨t, ht, honly, hreply, hreset⟩ := key_fail (p := .sw) (s := s) hst nofun hlong
      exact ⟨t, ht, honly, hreply, fun hlt => absurd hlt hrun, fun _ => ⟨hlong, hreset⟩⟩

/-! ### A raw bit (R244 to R246) -/

/-- Two equal halves are a raw bit: two shorts are 0, two longs are 1. -/
theorem laneStep_sw_bit {cfg : Config} {st : DecState} {c : PulseClass} {v : Bool} {l : Lane}
    (hrow : (st, c, v) = (.phaseA, .short, false) ∨ (st, c, v) = (.phaseB, .long, true)) (hst : l.state = st) :
    st ≠ .done ∧ laneStep cfg .sw c l = swBit cfg.sw.w v l := by
  obtain hrow | hrow := hrow <;> cases hrow
  · exact ⟨nofun, laneStep_sw_secondHalf (a := .short) (b := .short) hst⟩
  · exact ⟨nofun, laneStep_sw_secondHalf (a := .long) (b := .long) hst⟩

theorem swCountMatch_iff (l : Lane) :
    swCountMatch l = true ↔ l.nbits.toNat = if l.ext = true then 54 else 45 := by
  rw [swCountMatch, beq_iff_eq]

/-- A good parity bit counted: the lane rests in Confirmed with the accumulator cleared. -/
def Lane.parityCounted (l : Lane) : Lane := { l with nbits := l.nbits + 1, par := false, state := .confirmed }

section RawBit

variable {w : Nat} {v : Bool} {l : Lane}

/-- R245, R246: a parity bit is compared and not stored; a good one ends the message by the count. -/
theorem swBit_parity (hn : l.nbits.toNat < 255) (hraw : (l.nbits.toNat + 1) % 9 = 0) :
    swBit w v l = if v ≠ l.par then .fail .parity
      else if swCountMatch l.parityCounted then .complete l.parityCounted else .cont l.parityCounted := by
  rw [← toNat_succ hn] at hraw
  have hparity : isParityBit (l.nbits + 1) = true := beq_iff_eq.2 hraw
  simp only [swBit, hparity, if_true]
  rfl

/-- R245: another bit is appended, `l0` being the lane after it, and the message goes on. -/
theorem swBit_data (hw : w = 7 ∨ w = 8) (hb : bufferOk w l) (hp : l.pos.toNat < 25) (hn : l.nbits.toNat < 255)
    (hraw : (l.nbits.toNat + 1) % 9 ≠ 0) :
    ∃ l0, AppendedBit w v l l0 ∧ OnlyBuffer { l with nbits := l.nbits + 1 } l0
      ∧ swBit w v l = .cont { l0 with par := parNext l0.par v, state := .confirmed } := by
  rw [← toNat_succ hn] at hraw
  have hparity : isParityBit (l.nbits + 1) = false := beq_eq_false_iff_ne.2 hraw
  obtain ⟨l0, happend, -, hbit, hframe⟩ := append_spec (v := v) (l := { l with nbits := l.nbits + 1 }) hw hb hp
  obtain ⟨-, -, -, -, hnbits, -⟩ := hframe.regs
  refine ⟨l0, hbit, hframe, ?_⟩
  simp only [swBit, hparity, happend, Res.inStep, Bool.false_eq_true, if_false]
  exact swEndBit_of_not_parity (l := { l0 with par := parNext l0.par v }) (hnbits ▸ hraw)

end RawBit

/-- The key of a step that completes or goes on by a test of the lane it leaves. -/
theorem key_completeIf {p : LaneId} {st : DecState} {c : PulseClass} {s : State} {l : Lane} {test : Bool}
    (hcfg : configOk s.cfg) (hst : (s.lane p).state = st) (hd : st ≠ .done) (hb : bufferOk (s.cfg.lane p).w l)
    (hl : l.state ≠ .done) (hstep : laneStep s.cfg p c (s.lane p) = if test then .complete l else .cont l) :
    ∃ t, exec (keyInstr p st c) s = .next t ∧ OnlyLane p s t
      ∧ t.reply = .laneFed (decide ((t.lane p).state = .done))
      ∧ (test = true → HandedOver s.cfg p s.now l (t.lane p)) ∧ (¬ test = true → t.lane p = l) := by
  by_cases htest : test = true
  · obtain ⟨t, ht, honly, hreply, hover⟩ := key_complete hcfg hst hd (hstep.trans (if_pos htest)) hb
    exact ⟨t, ht, honly, hreply, fun _ => hover, fun hnot => absurd htest hnot⟩
  · obtain ⟨t, ht, honly, hreply, hlane⟩ := key_cont hst hd (hstep.trans (if_neg htest)) hl
    exact ⟨t, ht, honly, by rw [hreply, hlane, decide_eq_false hl], fun h => absurd h htest, fun _ => hlane⟩

/-- Settles O34: the lane a good parity bit leaves is `Lane.parityCounted`, and a wrong one is a Fail. -/
theorem swParityIsChecked : Obligations.SwParityIsChecked := by
  intro st c v s hrow hst hcfg hb hn hraw
  obtain ⟨hd, hstep⟩ := laneStep_sw_bit (cfg := s.cfg) hrow hst
  rw [swBit_parity hn hraw] at hstep
  have hcount : s.sw.parityCounted.nbits.toNat = s.sw.nbits.toNat + 1 := toNat_succ hn
  by_cases hv : v = s.sw.par
  · rw [if_neg (not_not_intro hv)] at hstep
    obtain ⟨t, ht, honly, hreply, hover, hrest⟩ :=
      key_completeIf (p := .sw) (l := s.sw.parityCounted) hcfg hst hd hb nofun hstep
    rw [swCountMatch_iff] at hover hrest
    exact ⟨t, s.sw.parityCounted, ht, honly, hreply, hcount, rfl, rfl, rfl, .of_data_eq rfl,
      fun hne => absurd hv hne, fun _ => hover, fun _ => hrest⟩
  · rw [if_pos hv] at hstep
    obtain ⟨t, ht, honly, hreply, hreset⟩ := key_fail_state (p := .sw) hst hd hstep
    exact ⟨t, s.sw.parityCounted, ht, honly, hreply, hcount, rfl, rfl, rfl, .of_data_eq rfl,
      fun _ => ⟨hstep, hreset⟩, fun e => absurd e hv, fun e => absurd e hv⟩

/-- Settles O35: the lane left is that of `swBit_data`, the appended one with the bit in the accumulator. -/
theorem swDataBitIsStored : Obligations.SwDataBitIsStored := by
  intro st c v s hrow hst hcfg hb hp hn hraw
  obtain ⟨hd, hstep⟩ := laneStep_sw_bit (cfg := s.cfg) hrow hst
  obtain ⟨l0, hbit, hframe, hstored⟩ := swBit_data (v := v) (configOk_w hcfg .sw) hb hp hn hraw
  obtain ⟨-, -, -, -, hnbits, hpar, -⟩ := hframe.regs
  obtain ⟨t, ht, honly, hreply, hlane⟩ := key_cont (p := .sw) hst hd (hstep.trans hstored) nofun
  have hsw : t.sw = { l0 with par := parNext l0.par v, state := .confirmed } := hlane
  refine ⟨t, ht, honly, hreply, ?_⟩
  rw [hsw]
  refine ⟨hbit, ?_, congrArg (parNext · v) hpar, rfl, ?_⟩
  · show l0.nbits.toNat = _
    rw [hnbits, toNat_succ hn]
  · exact congrArg (fun m : Lane => { m with nbits := s.sw.nbits, par := s.sw.par, state := s.sw.state }) hframe

/-! ### The packet that is held (R248 (a)) -/

/-- The 40 data bits of a message of lane SW, all collected. -/
def SwPacket (l : Lane) : Prop := bufferOk 8 l ∧ collected 8 l = 40

/-- 40 bits are five bytes, and PAD adds none. -/
theorem SwPacket.padded {l : Lane} (h : SwPacket l) : paddedLen l = 5 := by
  obtain ⟨⟨⟨-, hbits, -⟩, -⟩, hcount⟩ := h
  rw [collected] at hcount
  have hb0 : l.bits = 0 := BitVec.eq_of_toNat_eq (show l.bits.toNat = 0 by omega)
  rw [paddedLen, if_pos hb0]
  omega

/-- A step of lane SW completes at the fifth parity bit, or at a gap after the last data bit (R241, R246). -/
theorem stepSw_completes {c : PulseClass} {l : Lane} (hb : bufferOk 8 l) (hext : l.ext = false)
    (hcount : collected 8 l = l.nbits.toNat - l.nbits.toNat / 9) (hlt : l.nbits.toNat < 45) :
    (stepSw 8 c l).All (fun _ => True) SwPacket := by
  have hpos : 8 * l.pos.toNat ≤ collected 8 l := Nat.le_add_right _ _
  have bit : ∀ v, (swBit 8 v l).All (fun _ => True) SwPacket := fun v => by
    by_cases hraw : (l.nbits.toNat + 1) % 9 = 0
    · rw [swBit_parity (by omega) hraw]
      split
      case isTrue => trivial
      case isFalse =>
        split
        case isTrue hmatch =>
          have hcounted : l.parityCounted.nbits.toNat = l.nbits.toNat + 1 := toNat_succ (by omega)
          have h45 : l.nbits.toNat + 1 = 45 := by
            rw [← hcounted, (swCountMatch_iff _).1 hmatch]
            exact if_neg (Bool.eq_false_iff.1 hext)
          have hforty : collected 8 l = 40 := by omega
          exact ⟨hb, hforty⟩
        case isFalse => trivial
    · obtain ⟨l0, -, -, hstored⟩ := swBit_data (v := v) (.inr rfl) hb (by omega) (by omega) hraw
      rw [hstored]
      trivial
  have data : ∀ h, (swData 8 h l).All (fun _ => True) SwPacket := fun h => by
    unfold swData
    cases l.state with
    | unknown =>
      cases h with
      | short => trivial
      | long => simp only [swRunIn]; split <;> trivial
    | confirmed => rw [firstHalf_eq]; trivial
    | phaseA =>
      cases h with
      | short => exact bit false
      | long => trivial
    | phaseB =>
      cases h with
      | short => trivial
      | long => exact bit true
    | sync | trailing | done | rsv7 => trivial
  cases c with
  | short => exact data .short
  | long => exact data .long
  | outOfRange => trivial
  | gap =>
    rw [stepSw, swGap]
    split
    case isTrue hpacket =>
      have hfive : 5 ≤ l.pos.toNat := hpacket
      exact ⟨hb, by omega⟩
    case isFalse => trivial

/-- Settles O51: the packet held is the padded one of a step that completes. -/
theorem swPacketsHaveFiveBytes : Obligations.SwPacketsHaveFiveBytes := by
  intro cfg now c l l' hcfg hinv hw h hd hd'
  obtain ⟨hb, ⟨-, -, -, hext⟩, -, ⟨-, hcount⟩, -⟩ := hinv
  obtain ⟨l1, hstep, hho⟩ := laneFeed_handsOver hcfg hb h hd hd'
  obtain ⟨hcollected, hlt⟩ := hcount rfl hd
  rw [configLane_sw, hw] at hb hcollected
  rw [laneStep, configLane_sw, hw] at hstep
  have hpacket : SwPacket l1 := (stepSw_completes hb hext hcollected hlt).of_complete hstep
  obtain ⟨hpos, -⟩ := hho.held hd'
  exact BitVec.eq_of_toNat_eq (hpos.trans hpacket.padded)

end Sys2Proof.Machine
end

section
/-!
PROOF. Every step completes (spec/93_implementation_defined.md, end of part 1): where the buffers are in order, no
operation accesses a slot that does not exist (R60; log 11), and a `Fail` is no stop but the lane reset
(spec/60_exceptions.md R270).
-/

namespace Sys2Proof.Machine

/-- The accumulator never faults: APPEND and MANCH may find the buffer full (R131, R132), and the others raise nothing. -/
theorem AccumulatorOp.ok_or_overflow {w : Nat} {p : LaneId} {i : Instr} {f : Lane → Res Lane} {l : Lane}
    (hi : AccumulatorOp w p i f) (hw : w = 7 ∨ w = 8) (h : Machine.bufferOk w l) :
    (∃ l', f l = .ok l') ∨ f l = .fail .overflow := by
  cases hi with
  | append v =>
    obtain hfree | hfull := free_or_full h
    · obtain ⟨l', happend, -⟩ := append_spec (v := v) hw h hfree
      exact .inl ⟨l', happend⟩
    · exact .inr (append_full hfull)
  | manch raw =>
    obtain hfree | hfull := free_or_full h
    · obtain ⟨l', hmanch, -⟩ := manch_spec (raw := raw) hw h hfree
      exact .inl ⟨l', hmanch⟩
    · exact .inr (manch_full hfull)
  | pad => obtain ⟨l', hpad, -⟩ := pad_spec hw h; exact .inl ⟨l', hpad⟩
  | align max => obtain ⟨l', halign, -⟩ := align_spec (max := max) hw h; exact .inl ⟨l', halign⟩
  | revb => obtain ⟨l', hmap, -⟩ := mapCompleted_spec (f := bitrev8) h; exact .inl ⟨l', hmap⟩
  | revn => obtain ⟨l', hmap, -⟩ := mapCompleted_spec (f := swapNibbles) h; exact .inl ⟨l', hmap⟩
  | invert => exact .inl ⟨_, rfl⟩

/-- A micro-operation by itself completes, a `Fail` it raises included (log 9). -/
theorem AccumulatorOp.exec_completes {p : LaneId} {i : Instr} {f : Lane → Res Lane} {s : State}
    (hi : AccumulatorOp (s.cfg.lane p).w p i f) (h : buffersInv s) : ∃ t, exec i s = .next t := by
  obtain ⟨hcfg, hb⟩ := (buffersInv_iff s).1 h
  obtain ⟨l, hok⟩ | hfail := hi.ok_or_overflow (configOk_w hcfg p) (hb p)
  · exact ⟨_, hi.exec_eq.trans (micro_ok hok)⟩
  · exact ⟨_, hi.exec_eq.trans (micro_fail hfail)⟩

/-- TAKE completes: the packet it reads ends within the buffer. -/
theorem execTake_completes {p : LaneId} {s : State} (hpos : (s.lane p).pos.toNat ≤ 25) :
    ∃ t, execTake p s = .next t := by
  by_cases hd : (s.lane p).state = .done
  · exact ⟨_, execTake_of_done hd hpos⟩
  · exact ⟨_, execTake_of_ne_done hd⟩

/-- A transition key completes in whatever state it takes the lane (log 8). -/
theorem transition_completes {p : LaneId} {s : State} (st : DecState) (c : PulseClass) (h : buffersInv s) :
    ∃ t, transition p st c s = .next t := by
  obtain ⟨hcfg, hb⟩ := (buffersInv_iff s).1 h
  obtain ⟨l, hfeed, -⟩ :=
    laneFeed_bufferOk (now := s.now) (c := c) (l := { s.lane p with state := st }) hcfg (hb p)
  exact ⟨_, by rw [transition, hfeed]⟩

/-- Every instruction completes when the buffers are in order. -/
theorem exec_completes {s : State} (i : Instr) (h : buffersInv s) : ∃ t, exec i s = .next t := by
  have hpos (p : LaneId) : (s.lane p).pos.toNat ≤ 25 := by
    obtain ⟨-, hb⟩ := (buffersInv_iff s).1 h
    obtain ⟨⟨hle, -, -⟩, -⟩ := hb p
    exact hle
  induction i using instr_cases with
  | nop => exact ⟨_, rfl⟩
  | feed width => exact execFeed_completes width h
  | take p => exact execTake_completes (hpos p)
  | reset p => exact ⟨_, rfl⟩
  | reserved4 => exact ⟨_, rfl⟩
  | reserved5 => exact ⟨_, rfl⟩
  | reserved6 => exact ⟨_, rfl⟩
  | reserved7 => exact ⟨_, rfl⟩
  | append p v => exact (AccumulatorOp.append v).exec_completes h
  | manch p raw => exact (AccumulatorOp.manch raw).exec_completes h
  | pad p => exact AccumulatorOp.pad.exec_completes h
  | align p max => exact (AccumulatorOp.align max).exec_completes h
  | revb p => exact AccumulatorOp.revb.exec_completes h
  | revn p => exact AccumulatorOp.revn.exec_completes h
  | invert p => exact AccumulatorOp.invert.exec_completes h
  | admitPacket p => exact ⟨_, exec_admitPacket (hpos p) rfl⟩
  | key p st c => rw [exec_keyInstr]; exact transition_completes st c h

/-- Settles O58: the configuration is legal, so what the ports present is run; an instruction completes, and a refused
word is answered. -/
theorem stepAlwaysCompletes : Obligations.StepAlwaysCompletes := by
  intro s hs
  obtain ⟨hcfg, -⟩ := (buffersInv_iff s).1 hs
  rw [step_of_configOk hcfg]
  cases fetch s with
  | run i => exact exec_completes i (buffersInv_advance hs)
  | illegal => exact ⟨_, rfl⟩

end Sys2Proof.Machine
end

section
/-!
PROOF. The power-on reset (spec/70_reset_and_hazards.md R301), and the configuration, which nothing writes after the
block is constructed (R48, R316).
-/

namespace Sys2Proof.Machine

/-- The power-on reset treats all four lanes alike (R301). -/
@[simp] theorem lane_stateReset (p : LaneId) : State.reset.lane p = Lane.powerOn := by cases p <;> rfl

/-- The power-on reset leaves every slot of a buffer at 0x00 (R301). -/
theorem read_powerOn (i : Nat) : Lane.powerOn.data.read i = 0x00 := Memory.read_nil i

/-- No lane holds a packet after the power-on reset (R52, R301). -/
theorem avail_stateReset (p : LaneId) : State.reset.avail p = false := by
  rw [State.avail, lane_stateReset]
  rfl

/-- No step changes the configuration: neither an instruction nor the answer to a refused word writes it (R48, R316). -/
theorem step_cfg {s t : State} (h : step s = .next t) : t.cfg = s.cfg := by
  obtain ⟨-, hrun⟩ := step_next h
  cases hf : fetch s with
  | run i =>
    rw [hf] at hrun
    obtain ⟨hcfg, -⟩ := exec_effect hrun
    exact hcfg.trans (State.advance_cfg s)
  | illegal =>
    rw [hf] at hrun
    cases hrun
    exact State.advance_cfg s

/-- Settles O54: every lane of the reset state is the power-on lane, whose registers are R301's values by definition; the
rest is `step_cfg`. -/
theorem powerOnValues : Obligations.PowerOnValues := by
  refine ⟨fun p => ?lanes, fun s t => step_cfg⟩
  case lanes =>
    rw [lane_stateReset]
    exact ⟨read_powerOn, rfl, rfl, rfl, rfl, rfl, rfl, rfl, rfl, rfl, rfl, rfl, rfl, rfl, rfl, avail_stateReset p⟩

end Sys2Proof.Machine
end
